-- ==== Sys2Proof/Word.lean ====
section
/-! DEFINITION. The word types: bytes, instruction words, instruction fields and register numbers
(spec 10_state R15 to R18, 30_encoding R57 to R60). -/

namespace Sys2Proof

/-- An 8-bit value: a general register, a memory byte, the immediate `nn` (R15, R59). -/
abbrev Byte := BitVec 8

/-- A 16-bit value: an instruction word, PC, I, a stack slot (R17, R18, R20, R57). -/
abbrev Word := BitVec 16

/-- The 12-bit address field `nnn` (R59). -/
abbrev Addr := BitVec 12

/-- The 4-bit count field `n` (R59). -/
abbrev Nibble := BitVec 4

/-- A general register number, V0 to VF (R15). -/
abbrev Reg := Fin 16

/-- A key number, 0x0 to 0xF (R24, R134). -/
abbrev Key := Fin 16

end Sys2Proof
end

