-- ==== Sys2Proof/Syntax.lean ====
section
/-! DEFINITION. The instructions: one constructor per row of spec/opcode_table.json, in its order
(spec 30_encoding R63). ILLEGAL is no instruction but the decoder's fallback (R65). -/

namespace Sys2Proof

/-- The 35 instructions. `x`, `y` are register numbers, `nn`, `n`, `nnn` the immediates of R59. -/
inductive Instr where
  /-- 00E0, R72 -/
  | cls
  /-- 00EE, R78 -/
  | ret
  /-- 0NNN, R79 -/
  | sys (nnn : Addr)
  /-- 1NNN, R80 -/
  | jp (nnn : Addr)
  /-- 2NNN, R81 -/
  | call (nnn : Addr)
  /-- 3XNN, R82 -/
  | seImm (x : Reg) (nn : Byte)
  /-- 4XNN, R83 -/
  | sneImm (x : Reg) (nn : Byte)
  /-- 5XY0, R84 -/
  | seReg (x y : Reg)
  /-- 6XNN, R90 -/
  | ldImm (x : Reg) (nn : Byte)
  /-- 7XNN, R91 -/
  | addImm (x : Reg) (nn : Byte)
  /-- 8XY0, R92 -/
  | ldReg (x y : Reg)
  /-- 8XY1, R93 -/
  | orReg (x y : Reg)
  /-- 8XY2, R94 -/
  | andReg (x y : Reg)
  /-- 8XY3, R95 -/
  | xorReg (x y : Reg)
  /-- 8XY4, R96 -/
  | addReg (x y : Reg)
  /-- 8XY5, R97 -/
  | subReg (x y : Reg)
  /-- 8XY6, R98 -/
  | shrReg (x y : Reg)
  /-- 8XY7, R99 -/
  | subnReg (x y : Reg)
  /-- 8XYE, R100 -/
  | shlReg (x y : Reg)
  /-- 9XY0, R85 -/
  | sneReg (x y : Reg)
  /-- ANNN, R103 -/
  | ldI (nnn : Addr)
  /-- BNNN, R86 -/
  | jpV0 (nnn : Addr)
  /-- CXNN, R101 -/
  | rnd (x : Reg) (nn : Byte)
  /-- DXYN, R73 -/
  | drw (x y : Reg) (n : Nibble)
  /-- EX9E, R112 -/
  | skp (x : Reg)
  /-- EXA1, R113 -/
  | sknp (x : Reg)
  /-- FX07, R114 -/
  | ldVDt (x : Reg)
  /-- FX0A, R115 -/
  | ldVKey (x : Reg)
  /-- FX15, R116 -/
  | ldDt (x : Reg)
  /-- FX18, R117 -/
  | ldSt (x : Reg)
  /-- FX1E, R104 -/
  | addI (x : Reg)
  /-- FX29, R105 -/
  | ldF (x : Reg)
  /-- FX33, R106 -/
  | ldB (x : Reg)
  /-- FX55, R107 -/
  | storeRegs (x : Reg)
  /-- FX65, R108 -/
  | loadRegs (x : Reg)
  deriving DecidableEq, Repr

end Sys2Proof
end

