-- ==== Sys2Proof/WellFormed.lean ====
section
/-! DEFINITION. Which instructions have an encoding of their own: 0NNN excludes the words 0x00E0 and
0x00EE, which are 00E0 and 00EE (spec 30_encoding R62, 41_control R79). The operand types bound every
other field. -/

namespace Sys2Proof

/-- The instruction is what its own word decodes to (R62, R79). -/
abbrev Instr.WellFormed : Instr → Prop
  | .sys nnn => nnn ≠ 0x0E0 ∧ nnn ≠ 0x0EE
  | .cls => True
  | .ret => True
  | .jp _ => True
  | .call _ => True
  | .seImm _ _ => True
  | .sneImm _ _ => True
  | .seReg _ _ => True
  | .ldImm _ _ => True
  | .addImm _ _ => True
  | .ldReg _ _ => True
  | .orReg _ _ => True
  | .andReg _ _ => True
  | .xorReg _ _ => True
  | .addReg _ _ => True
  | .subReg _ _ => True
  | .shrReg _ _ => True
  | .subnReg _ _ => True
  | .shlReg _ _ => True
  | .sneReg _ _ => True
  | .ldI _ => True
  | .jpV0 _ => True
  | .rnd _ _ => True
  | .drw _ _ _ => True
  | .skp _ => True
  | .sknp _ => True
  | .ldVDt _ => True
  | .ldVKey _ => True
  | .ldDt _ => True
  | .ldSt _ => True
  | .addI _ => True
  | .ldF _ => True
  | .ldB _ => True
  | .storeRegs _ => True
  | .loadRegs _ => True

end Sys2Proof
end

