-- ==== Sys2Proof/Decode.lean ====
section
/-! DEFINITION. The decoder, total on any bytes, as the opcode table of spec 30_encoding R63 read in
its order (R62), and after it the encoder written from the same patterns. -/

namespace Sys2Proof

/-! ## Fields (R59) -/

/-- x = w[11:8] -/
def fieldX (w : Word) : Reg := (w.extractLsb 11 8).toFin

/-- y = w[7:4] -/
def fieldY (w : Word) : Reg := (w.extractLsb 7 4).toFin

/-- n = w[3:0] -/
def fieldN (w : Word) : Nibble := w.extractLsb 3 0

/-- nn = w[7:0] -/
def fieldNn (w : Word) : Byte := w.extractLsb 7 0

/-- nnn = w[11:0] -/
def fieldNnn (w : Word) : Addr := w.extractLsb 11 0

/-! ## The opcode table (R63) -/

/-- One row of the opcode table: a word w is the row's when w & mask = value (R62). -/
structure OpcodeRow where
  mask  : Word
  value : Word
  build : Word → Instr

/-- w & mask == match (R62). -/
def OpcodeRow.hits (w : Word) (r : OpcodeRow) : Bool := w &&& r.mask == r.value

/-- Classes 0 to 5 (R63). -/
def rowsControl : List OpcodeRow :=
  [ ⟨0xFFFF, 0x00E0, fun _ => .cls⟩
  , ⟨0xFFFF, 0x00EE, fun _ => .ret⟩
  , ⟨0xF000, 0x0000, fun w => .sys (fieldNnn w)⟩
  , ⟨0xF000, 0x1000, fun w => .jp (fieldNnn w)⟩
  , ⟨0xF000, 0x2000, fun w => .call (fieldNnn w)⟩
  , ⟨0xF000, 0x3000, fun w => .seImm (fieldX w) (fieldNn w)⟩
  , ⟨0xF000, 0x4000, fun w => .sneImm (fieldX w) (fieldNn w)⟩
  , ⟨0xF00F, 0x5000, fun w => .seReg (fieldX w) (fieldY w)⟩ ]

/-- Classes 6 and 7 (R63). -/
def rowsImmediate : List OpcodeRow :=
  [ ⟨0xF000, 0x6000, fun w => .ldImm (fieldX w) (fieldNn w)⟩
  , ⟨0xF000, 0x7000, fun w => .addImm (fieldX w) (fieldNn w)⟩ ]

/-- Classes 8 and 9 (R63). -/
def rowsRegister : List OpcodeRow :=
  [ ⟨0xF00F, 0x8000, fun w => .ldReg (fieldX w) (fieldY w)⟩
  , ⟨0xF00F, 0x8001, fun w => .orReg (fieldX w) (fieldY w)⟩
  , ⟨0xF00F, 0x8002, fun w => .andReg (fieldX w) (fieldY w)⟩
  , ⟨0xF00F, 0x8003, fun w => .xorReg (fieldX w) (fieldY w)⟩
  , ⟨0xF00F, 0x8004, fun w => .addReg (fieldX w) (fieldY w)⟩
  , ⟨0xF00F, 0x8005, fun w => .subReg (fieldX w) (fieldY w)⟩
  , ⟨0xF00F, 0x8006, fun w => .shrReg (fieldX w) (fieldY w)⟩
  , ⟨0xF00F, 0x8007, fun w => .subnReg (fieldX w) (fieldY w)⟩
  , ⟨0xF00F, 0x800E, fun w => .shlReg (fieldX w) (fieldY w)⟩
  , ⟨0xF00F, 0x9000, fun w => .sneReg (fieldX w) (fieldY w)⟩ ]

/-- Classes A to D (R63). -/
def rowsIndex : List OpcodeRow :=
  [ ⟨0xF000, 0xA000, fun w => .ldI (fieldNnn w)⟩
  , ⟨0xF000, 0xB000, fun w => .jpV0 (fieldNnn w)⟩
  , ⟨0xF000, 0xC000, fun w => .rnd (fieldX w) (fieldNn w)⟩
  , ⟨0xF000, 0xD000, fun w => .drw (fieldX w) (fieldY w) (fieldN w)⟩ ]

/-- Classes E and F (R63). -/
def rowsKeyTimer : List OpcodeRow :=
  [ ⟨0xF0FF, 0xE09E, fun w => .skp (fieldX w)⟩
  , ⟨0xF0FF, 0xE0A1, fun w => .sknp (fieldX w)⟩
  , ⟨0xF0FF, 0xF007, fun w => .ldVDt (fieldX w)⟩
  , ⟨0xF0FF, 0xF00A, fun w => .ldVKey (fieldX w)⟩
  , ⟨0xF0FF, 0xF015, fun w => .ldDt (fieldX w)⟩
  , ⟨0xF0FF, 0xF018, fun w => .ldSt (fieldX w)⟩
  , ⟨0xF0FF, 0xF01E, fun w => .addI (fieldX w)⟩
  , ⟨0xF0FF, 0xF029, fun w => .ldF (fieldX w)⟩
  , ⟨0xF0FF, 0xF033, fun w => .ldB (fieldX w)⟩
  , ⟨0xF0FF, 0xF055, fun w => .storeRegs (fieldX w)⟩
  , ⟨0xF0FF, 0xF065, fun w => .loadRegs (fieldX w)⟩ ]

/-- The opcode table in its order, 00E0 and 00EE before 0NNN (R62, R63). -/
def opcodeRows : List OpcodeRow :=
  rowsControl ++ rowsImmediate ++ rowsRegister ++ rowsIndex ++ rowsKeyTimer

/-! ## Decoding -/

/-- Why a decode gives no instruction. -/
inductive DecodeError where
  /-- The word matches no row: ILLEGAL (R64, R65). -/
  | illegalWord (w : Word)
  /-- Fewer than the two bytes of a word (R57); no fetch ever meets this. -/
  | truncated
  deriving DecidableEq, Repr

/-- The first row that matches decides; a word no row matches is ILLEGAL (R62). -/
def decodeWord (w : Word) : Except DecodeError Instr :=
  match opcodeRows.find? (OpcodeRow.hits w) with
  | some r => .ok (r.build w)
  | none => .error (.illegalWord w)

/-- Decode a byte stream: two bytes, the first in bits 15..8 (R43, R57). -/
def decodeBytes : List Byte → Except DecodeError (Instr × List Byte)
  | hi :: lo :: rest =>
    match decodeWord (hi ++ lo) with
    | .ok i => .ok (i, rest)
    | .error e => .error e
  | _ => .error .truncated

/-- The byte a word is stored with at the lower address, bits 15..8 (R43). -/
def highByte (w : Word) : Byte := w.extractLsb 15 8

/-- The byte a word is stored with at the higher address, bits 7..0 (R43). -/
def lowByte (w : Word) : Byte := w.extractLsb 7 0

/-- The word the opcode table numbers: bits 15..0 of `w`, those at and above `nbits` zero. -/
def tableWord (nbits w : Nat) : Word := BitVec.ofNat 16 (w % 2 ^ nbits)

/-- What the decoder reads from the instruction whose bits are `w`, numbered as the table numbers them. -/
def decodeTableWord (nbits w : Nat) : Option Instr :=
  match decodeBytes [highByte (tableWord nbits w), lowByte (tableWord nbits w)] with
  | .ok (i, _) => some i
  | .error _ => none

/-! ## Encoding -/

/-- A register number as its 4-bit field (R59). -/
def regBits (r : Reg) : Nibble := BitVec.ofFin r

/-- The word of an instruction, nibble by nibble as its pattern of R63 writes it. -/
def encode : Instr → Word
  | .cls => 0x00E0#16
  | .ret => 0x00EE#16
  | .sys nnn => 0x0#4 ++ nnn
  | .jp nnn => 0x1#4 ++ nnn
  | .call nnn => 0x2#4 ++ nnn
  | .seImm x nn => 0x3#4 ++ regBits x ++ nn
  | .sneImm x nn => 0x4#4 ++ regBits x ++ nn
  | .seReg x y => 0x5#4 ++ regBits x ++ regBits y ++ 0x0#4
  | .ldImm x nn => 0x6#4 ++ regBits x ++ nn
  | .addImm x nn => 0x7#4 ++ regBits x ++ nn
  | .ldReg x y => 0x8#4 ++ regBits x ++ regBits y ++ 0x0#4
  | .orReg x y => 0x8#4 ++ regBits x ++ regBits y ++ 0x1#4
  | .andReg x y => 0x8#4 ++ regBits x ++ regBits y ++ 0x2#4
  | .xorReg x y => 0x8#4 ++ regBits x ++ regBits y ++ 0x3#4
  | .addReg x y => 0x8#4 ++ regBits x ++ regBits y ++ 0x4#4
  | .subReg x y => 0x8#4 ++ regBits x ++ regBits y ++ 0x5#4
  | .shrReg x y => 0x8#4 ++ regBits x ++ regBits y ++ 0x6#4
  | .subnReg x y => 0x8#4 ++ regBits x ++ regBits y ++ 0x7#4
  | .shlReg x y => 0x8#4 ++ regBits x ++ regBits y ++ 0xE#4
  | .sneReg x y => 0x9#4 ++ regBits x ++ regBits y ++ 0x0#4
  | .ldI nnn => 0xA#4 ++ nnn
  | .jpV0 nnn => 0xB#4 ++ nnn
  | .rnd x nn => 0xC#4 ++ regBits x ++ nn
  | .drw x y n => 0xD#4 ++ regBits x ++ regBits y ++ n
  | .skp x => 0xE#4 ++ regBits x ++ 0x9E#8
  | .sknp x => 0xE#4 ++ regBits x ++ 0xA1#8
  | .ldVDt x => 0xF#4 ++ regBits x ++ 0x07#8
  | .ldVKey x => 0xF#4 ++ regBits x ++ 0x0A#8
  | .ldDt x => 0xF#4 ++ regBits x ++ 0x15#8
  | .ldSt x => 0xF#4 ++ regBits x ++ 0x18#8
  | .addI x => 0xF#4 ++ regBits x ++ 0x1E#8
  | .ldF x => 0xF#4 ++ regBits x ++ 0x29#8
  | .ldB x => 0xF#4 ++ regBits x ++ 0x33#8
  | .storeRegs x => 0xF#4 ++ regBits x ++ 0x55#8
  | .loadRegs x => 0xF#4 ++ regBits x ++ 0x65#8

/-- The two bytes of an instruction in memory order (R43). -/
def encodeBytes (i : Instr) : List Byte := [highByte (encode i), lowByte (encode i)]

end Sys2Proof
end

