-- ==== Sys2Proof/Config.lean ====
section
/-! DEFINITION. The named parameters of spec 00_scope R8, and the free values: opaque constants without
a body, which nothing in Lean can evaluate (log entries 3, 4). -/

namespace Sys2Proof

/-- ADDR_POLICY (R8, R40, D1). -/
inductive AddrPolicy where
  /-- address mod 4096 -/
  | wrap
  /-- min(address, 4095) -/
  | clamp
  deriving DecidableEq, Repr

/-- STACK_FAULT_PC (R8, R78, R81, D5). -/
inductive StackFaultPc where
  /-- PC unchanged -/
  | hold
  /-- PC + 2 -/
  | advance
  deriving DecidableEq, Repr

/-- VF_ORDER (R8, R89, D6). -/
inductive VfOrder where
  /-- the result is written first, then the flag -/
  | flagLast
  /-- the flag is written first, then the result -/
  | resultLast
  deriving DecidableEq, Repr

/-- SHIFT_SOURCE (R8, R98, R100, D8). -/
inductive ShiftSource where
  | vx
  | vy
  deriving DecidableEq, Repr

/-- LOADSTORE_RANGE (R8, R109, D9). -/
inductive LoadStoreRange where
  /-- V0..VX -/
  | inclusive
  /-- V0..V(X-1) -/
  | exclusive
  deriving DecidableEq, Repr

/-- FX1E_OVERFLOW_LIMIT (R8, R104, D11). -/
inductive Fx1eLimit where
  /-- 0xFFFF -/
  | reg16
  /-- 0x0FFF -/
  | addr12
  deriving DecidableEq, Repr

/-- FX1E_VF_NO_OVERFLOW (R8, R104, D12). -/
inductive Fx1eNoOverflow where
  /-- VF <- 0 -/
  | clear
  /-- VF unchanged -/
  | keep
  deriving DecidableEq, Repr

/-- KEY_INDEX_POLICY (R8, R111, D14). -/
inductive KeyIndexPolicy where
  | draw
  | lowNibble
  | notPressed
  deriving DecidableEq, Repr

/-- KEY_WAIT_SELECT (R8, R115, D15). -/
inductive KeyWaitSelect where
  | any
  | lowest
  deriving DecidableEq, Repr

/-- RANDOM_SOURCE (R8, R101, D16): `seeded` stands for a function of (seed, number of earlier CXNN
executions since reset), which is `Config.randomFn`. -/
inductive RandomSource where
  | draw
  | seeded
  deriving DecidableEq, Repr

/-- The parameters of R8, fixed for the whole run. SEED is no member: it is the argument of each
`reset(seed)` and stands in State. -/
structure Config where
  addrPolicy     : AddrPolicy
  stackFaultPc   : StackFaultPc
  vfOrder        : VfOrder
  shiftSource    : ShiftSource
  loadStoreRange : LoadStoreRange
  fx1eLimit      : Fx1eLimit
  fx1eNoOverflow : Fx1eNoOverflow
  keyIndexPolicy : KeyIndexPolicy
  keyWaitSelect  : KeyWaitSelect
  randomSource   : RandomSource
  /-- FONT: glyph d is bytes 5·d to 5·d + 4 (R33, D24) -/
  font           : Vector Byte 80
  deriving DecidableEq, Repr

/-- Free value: the byte CXNN draws under RANDOM_SOURCE = draw (R101, D16), by draw number. -/
opaque Config.drawByte : Nat → Byte

/-- Free value: the key state EX9E and EXA1 read for V[x] above 15 under KEY_INDEX_POLICY = draw
(R111, D14), by draw number. -/
opaque Config.drawKey : Nat → Bool

/-- Free value: which pressed key FX0A takes under KEY_WAIT_SELECT = any (R115, D15), by draw number;
used modulo the number of pressed keys. -/
opaque Config.drawIndex : Nat → Nat

/-- The functional RANDOM_SOURCE (R8, D16), which the source does not give: a byte from the seed and
the number of earlier CXNN executions since reset. -/
opaque Config.randomFn : Int → Nat → Byte

end Sys2Proof
end

