-- ==== Sys2Proof/Machine/Defaults.lean ====
section
/-! DEFINITION. The fixed numbers of spec 00_scope R7 and the default parameter values of R8. -/

namespace Sys2Proof.Machine

/-- The font region base (R7, R41). -/
def fontBase : Nat := 0x050

/-- The program area base, which is also the reset PC (R7, R41). -/
def programBase : Nat := 0x200

/-- The largest image load takes (R7, R139). -/
def programAreaSize : Nat := 0xE00

/-- The number of memory bytes (R7, R39). -/
def memorySize : Nat := 4096

/-- Framebuffer columns (R7, R25). -/
def screenColumns : Nat := 64

/-- Framebuffer rows (R7, R25). -/
def screenRows : Nat := 32

/-- The number of framebuffer bytes (R25). -/
def screenSize : Nat := screenRows * screenColumns

/-- Glyphs 0 to 7 of the default FONT (92_eei_decisions D24). PRESUMED by the spec, from general
knowledge (log entry 6). -/
def defaultFontLow : Vector Byte 40 :=
  #v[0xF0, 0x90, 0x90, 0x90, 0xF0,
     0x20, 0x60, 0x20, 0x20, 0x70,
     0xF0, 0x10, 0xF0, 0x80, 0xF0,
     0xF0, 0x10, 0xF0, 0x10, 0xF0,
     0x90, 0x90, 0xF0, 0x10, 0x10,
     0xF0, 0x80, 0xF0, 0x10, 0xF0,
     0xF0, 0x80, 0xF0, 0x90, 0xF0,
     0xF0, 0x10, 0x20, 0x40, 0x40]

/-- Glyphs 8 to F of the default FONT (92_eei_decisions D24). PRESUMED as above. -/
def defaultFontHigh : Vector Byte 40 :=
  #v[0xF0, 0x90, 0xF0, 0x90, 0xF0,
     0xF0, 0x90, 0xF0, 0x10, 0xF0,
     0xF0, 0x90, 0xF0, 0x90, 0x90,
     0xE0, 0x90, 0xE0, 0x90, 0xE0,
     0xF0, 0x80, 0x80, 0x80, 0xF0,
     0xE0, 0x90, 0x90, 0x90, 0xE0,
     0xF0, 0x80, 0xF0, 0x80, 0xF0,
     0xF0, 0x80, 0xF0, 0x80, 0x80]

/-- The default FONT, 16 glyphs of 5 bytes (R8, D24). -/
def defaultFont : Vector Byte 80 := defaultFontLow ++ defaultFontHigh

/-- The default of every parameter, the value the spec decides for the hardware (R8). -/
def defaultConfig : Config where
  addrPolicy     := .wrap
  stackFaultPc   := .hold
  vfOrder        := .flagLast
  shiftSource    := .vx
  loadStoreRange := .inclusive
  fx1eLimit      := .reg16
  fx1eNoOverflow := .clear
  keyIndexPolicy := .draw
  keyWaitSelect  := .any
  randomSource   := .draw
  font           := defaultFont

/-- The seed `State.reset` takes, since it has no argument. DESIGN CHOICE, unsafe (log entry 5): SEED
is OPEN (R8). -/
def defaultSeed : Int := 0

end Sys2Proof.Machine
end

