-- ==== Sys2Proof/Machine/State.lean ====
section
/-! DEFINITION. The state of the core (spec 10_state R15 to R33), the outputs of a transaction (R36),
why a step stops, and the state after reset (R33, 70_reset_and_hazards R137). -/

namespace Sys2Proof.Machine

/-- Memory as the list of the bytes that differ from what an unlisted address reads as, addresses
rising (`Memory.wf`). The framebuffer is held in the same form. -/
abbrev Memory := List Host.Cell

/-- A diagnostic record (60_exceptions R120). It changes no state, and no instruction reads it. -/
inductive Diag where
  /-- code 1: a word that matches no row of the opcode table (R65, R121) -/
  | illegalInstruction (pc word : Word)
  /-- code 2: 2NNN with SP = 16 (R76, R122) -/
  | stackOverflow (pc word : Word)
  /-- code 3: 00EE with SP = 0 (R77, R123) -/
  | stackUnderflow (pc word : Word)
  /-- code 4: an image longer than 0xE00 bytes (R124, R140) -/
  | loadTooLarge (length : Nat)
  deriving DecidableEq, Repr

/-- The result of a load (R36, R139, R140). -/
inductive LoadResult where
  | success
  | loadTooLarge
  deriving DecidableEq, Repr

/-- The outputs of the last transaction (R36). The spec gives them no storage (R29): State carries them
because a step answers a state only (log entry 2). No instruction reads them. -/
structure Outputs where
  diag       : List Diag
  soundStop  : Bool
  loadResult : Option LoadResult
  deriving DecidableEq, Repr

/-- The outputs with which a transaction begins: no record, no event, no result (R69). -/
def Outputs.none : Outputs := { diag := [], soundStop := false, loadResult := Option.none }

/-- Why the machine stops with a fault. It has no constructor: no condition of this hardware stops it
(60_exceptions R119, 93 "no behaviour of the hardware is treated as fault or stuck"). Nobody raises
one, which is safe. -/
inductive Fault where
  deriving DecidableEq, Repr

/-- Why an instruction has no meaning. -/
inductive Refusal where
  /-- Raised only by an arm of `exec` whose instruction has no meaning yet; there is no such arm.
  Safe: the run stops where the hardware goes on. -/
  | notModelled (mnemonic : String)
  deriving DecidableEq, Repr

end Sys2Proof.Machine

namespace Sys2Proof.Machine

/-- Everything the core holds (R15 to R29), the parameters fixed for the run (R8), and the outputs of
the last transaction (R36). -/
structure State where
  /-- V0 to VF (R15, R16) -/
  v         : Vector Byte 16
  /-- the index register I (R17) -/
  regI      : Word
  /-- the program counter (R18) -/
  pc        : Word
  /-- the stack pointer, an integer in [0,16] (R21) -/
  sp        : Fin 17
  /-- the 16 stack slots (R20) -/
  stack     : Vector Word 16
  /-- delayTimer (R22) -/
  dt        : Byte
  /-- soundTimer (R23) -/
  st        : Byte
  /-- the key-state table, true = pressed (R24, D29) -/
  key       : Vector Bool 16
  /-- the framebuffer bytes that are not 0, by index row * 64 + column (R25) -/
  fb        : Memory
  /-- the needs-redraw flag (R26) -/
  drawFlag  : Bool
  /-- the memory bytes that differ from their reset contents (R27, R39) -/
  mem       : Memory
  /-- the argument of the last reset(seed) (R28) -/
  seed      : Int
  /-- CXNN executions since reset under a functional RANDOM_SOURCE (R28, R101) -/
  randCount : Nat
  /-- the parameters of R8, fixed for the whole run (log entry 1) -/
  cfg       : Config
  /-- the model's own: how many free values have been taken (log entry 3) -/
  draws     : Nat
  /-- the outputs of the last transaction (R36) -/
  out       : Outputs
  deriving DecidableEq, Repr

/-- What an execution of one instruction answers. -/
abbrev Result := Host.Outcome State Fault Refusal

/-- The state after `reset(seed)` under the parameters `c` (R33, R137). Memory lists nothing: an unlisted
address reads as its reset contents. -/
def State.resetWith (c : Config) (seed : Int) : State where
  v         := Vector.replicate 16 0
  regI      := 0
  pc        := BitVec.ofNat 16 programBase
  sp        := 0
  stack     := Vector.replicate 16 0
  dt        := 0
  st        := 0
  key       := Vector.replicate 16 false
  fb        := []
  drawFlag  := false
  mem       := []
  seed      := seed
  randCount := 0
  cfg       := c
  draws     := 0
  out       := Outputs.none

/-- The machine right after reset, at the default parameters of R8 and the seed `defaultSeed`. -/
def State.reset : State := State.resetWith defaultConfig defaultSeed

end Sys2Proof.Machine
end

