-- ==== Sys2Proof/Machine/Memory.lean ====
section
/-! DEFINITION. Byte stores as sparse lists: the core memory (spec 20_memory R39, R48) and the
framebuffer (10_state R25). `d` is what an unlisted address reads as. -/

namespace Sys2Proof.Machine

/-- The byte at address `a`. -/
def Memory.read (d : Nat → Byte) : Memory → Nat → Byte
  | [], a => d a
  | (b, w) :: m, a => if a = b then w else Memory.read d m a

/-- The store without its entries for `a`. -/
def Memory.dropAt (m : Memory) (a : Nat) : Memory := m.filter (fun p => p.1 != a)

/-- The store with an entry for `a` put before the first entry of a higher address. -/
def Memory.insertAt : Memory → Nat → Byte → Memory
  | [], a, w => [(a, w)]
  | (b, u) :: m, a, w => if a < b then (a, w) :: (b, u) :: m else (b, u) :: Memory.insertAt m a w

/-- Write the byte `w` at address `a`, keeping the canonical form: a byte equal to what an unlisted
address reads as is not listed. A write changes only the addressed byte (R48). -/
def Memory.write (d : Nat → Byte) (m : Memory) (a : Nat) (w : Byte) : Memory :=
  if w = d a then Memory.dropAt m a else Memory.insertAt (Memory.dropAt m a) a w

/-- The canonical form: addresses strictly rising and below `size`, and no entry equal to what an
unlisted address reads as. -/
abbrev Memory.wf (d : Nat → Byte) (size : Nat) (m : Memory) : Prop :=
  m.Pairwise (fun p q => p.1 < q.1) ∧ ∀ p ∈ m, p.1 < size ∧ p.2 ≠ d p.1

/-- What a core memory byte nothing has written reads as: its reset contents, FONT at 0x050 to 0x09F
and 0 elsewhere (R27, R33). -/
def initialByte (c : Config) (a : Nat) : Byte :=
  if h : fontBase ≤ a ∧ a - fontBase < 80 then c.font[a - fontBase] else 0

/-- What a framebuffer byte that is not listed reads as: 0, off (R25). -/
def darkPixel (_ : Nat) : Byte := 0

/-- Address reduction: every memory access reduces its address to an index in 0..4095 (R40). -/
def ea (c : Config) (a : Nat) : Nat :=
  match c.addrPolicy with
  | .wrap => a % memorySize
  | .clamp => min a (memorySize - 1)

end Sys2Proof.Machine
end

