-- ==== Sys2Proof/Machine/Ops.lean ====
section
/-! DEFINITION. The named operations over the state: registers, memory, the framebuffer, PC, the stack,
diagnostics, draws, keys, timers and the fetch. The core has no trap entry and no return from one
(spec 60_exceptions R119, R126, R127): what an abnormal condition does is `State.raise`. -/

namespace Sys2Proof.Machine

/-! ## General registers (R11, R15) -/

/-- VF, the flag register (R16). -/
def vf : Reg := 15

/-- V[x] -/
def State.getV (s : State) (x : Reg) : Byte := s.v[x.val]

/-- V[x] <- b -/
def State.setV (s : State) (x : Reg) (b : Byte) : State := { s with v := s.v.set x.val b }

/-- I <- w (R17) -/
def State.setI (s : State) (w : Word) : State := { s with regI := w }

/-! ## Memory (R12, R39, R40) -/

/-- The memory byte with index `k`. -/
def State.byteAt (s : State) (k : Nat) : Byte := Memory.read (initialByte s.cfg) s.mem k

/-- MemRead(a, 1): the byte at the unreduced address `a` (R12). -/
def State.readMem (s : State) (a : Nat) : Byte := s.byteAt (ea s.cfg a)

/-- MemWrite(a, 1, b) (R12). -/
def State.writeMem (s : State) (a : Nat) (b : Byte) : State :=
  { s with mem := Memory.write (initialByte s.cfg) s.mem (ea s.cfg a) b }

/-! ## The framebuffer (R25, R26) -/

/-- The index of the pixel at row `r`, column `c` (R11, R25). -/
def pixelIndex (r c : Nat) : Nat := r * screenColumns + c

/-- The framebuffer byte with index `k`. -/
def State.fbByte (s : State) (k : Nat) : Byte := Memory.read darkPixel s.fb k

/-- fb[r][c] -/
def State.pixel (s : State) (r c : Nat) : Byte := s.fbByte (pixelIndex r c)

/-- fb[k] <- b -/
def State.setFb (s : State) (k : Nat) (b : Byte) : State :=
  { s with fb := Memory.write darkPixel s.fb k b }

/-- Every framebuffer byte <- 0 (R72). -/
def State.clearFb (s : State) : State := { s with fb := [] }

/-- drawFlag <- b -/
def State.setDrawFlag (s : State) (b : Bool) : State := { s with drawFlag := b }

/-! ## PC (R18, R70) -/

/-- PC <- w -/
def State.setPc (s : State) (w : Word) : State := { s with pc := w }

/-- advance: PC <- u16(PC + 2) (R70). -/
def State.advance (s : State) : State := s.setPc (s.pc + 2)

/-- skip_if(c): PC <- u16(PC + (c ? 4 : 2)) (R70). -/
def State.skipIf (s : State) (c : Bool) : State := s.setPc (s.pc + if c then 4 else 2)

/-! ## Diagnostics (R13, R120) -/

/-- The code of a record (R120). -/
def Diag.code : Diag → Nat
  | .illegalInstruction _ _ => 1
  | .stackOverflow _ _ => 2
  | .stackUnderflow _ _ => 3
  | .loadTooLarge _ => 4

/-- raise: append a record to the transaction's diagnostic output and change nothing else (R13). -/
def State.raise (s : State) (d : Diag) : State :=
  { s with out := { s.out with diag := s.out.diag ++ [d] } }

/-- The step of a word no instruction decodes from (R65). -/
def State.illegal (s : State) (w : Word) : State := (s.raise (.illegalInstruction s.pc w)).advance

/-! ## The call stack (R20, R21, R76, R77) -/

/-- PC after a stack fault, by STACK_FAULT_PC (R78, R81, R122, R123). -/
def State.stackFault (s : State) : State :=
  match s.cfg.stackFaultPc with
  | .hold => s
  | .advance => s.advance

/-- push(v): whether it succeeded, and the state after (R76). `w` is the word of the instruction. -/
def State.push (s : State) (v w : Word) : Bool × State :=
  if h : s.sp.val < 16 then
    (true, { s with stack := s.stack.set s.sp.val v, sp := ⟨s.sp.val + 1, by omega⟩ })
  else (false, s.raise (.stackOverflow s.pc w))

/-- pop(): the value, or none on underflow, and the state after; the slot is not cleared (R77, D22). -/
def State.pop (s : State) (w : Word) : Option Word × State :=
  if h : s.sp.val = 0 then (none, s.raise (.stackUnderflow s.pc w))
  else
    (some (s.stack[s.sp.val - 1]'(by omega)), { s with sp := ⟨s.sp.val - 1, by omega⟩ })

/-! ## Draws (R13, R101, R111, R115) -/

/-- Take one free value: the next draw uses the next number (log entry 3). -/
def State.nextDraw (s : State) : State := { s with draws := s.draws + 1 }

/-- The random byte of CXNN, by RANDOM_SOURCE (R101). -/
def State.randomByte (s : State) : Byte × State :=
  match s.cfg.randomSource with
  | .draw => (Config.drawByte s.draws, s.nextDraw)
  | .seeded => (Config.randomFn s.seed s.randCount, { s with randCount := s.randCount + 1 })

/-! ## Keys (R24, R111, R115) -/

/-- pressed(v): the key EX9E and EXA1 look up; above 15 by KEY_INDEX_POLICY (R111). -/
def State.pressed (s : State) (v : Byte) : Bool × State :=
  if h : v.toNat < 16 then (s.key[v.toNat], s)
  else
    match s.cfg.keyIndexPolicy with
    | .draw => (Config.drawKey s.draws, s.nextDraw)
    | .lowNibble => (s.key[v.toNat % 16]'(Nat.mod_lt _ (by decide)), s)
    | .notPressed => (false, s)

/-- P, the pressed keys, in rising order (R115). -/
def State.pressedKeys (s : State) : List Key := (List.finRange 16).filter (fun k => s.key[k.val])

/-- The key FX0A takes from the pressed keys `k :: ks`, by KEY_WAIT_SELECT (R115). -/
def State.selectKey (s : State) (k : Key) (ks : List Key) : Key × State :=
  match s.cfg.keyWaitSelect with
  | .any =>
    ((k :: ks)[Config.drawIndex s.draws % (k :: ks).length]'(Nat.mod_lt _ (Nat.succ_pos _)), s.nextDraw)
  | .lowest => (k, s)

/-! ## Timers (R22, R23, R130, R131) -/

/-- DT <- b -/
def State.setDt (s : State) (b : Byte) : State := { s with dt := b }

/-- ST <- b -/
def State.setSt (s : State) (b : Byte) : State := { s with st := b }

/-- signal SoundStop (R13). -/
def State.signalSoundStop (s : State) : State := { s with out := { s.out with soundStop := true } }

/-- The delay timer's part of the timer update (R130). -/
def State.tickDt (s : State) : State := if s.dt = 0 then s else s.setDt (s.dt - 1)

/-- The sound timer's part of the timer update, with the sound-stop event (R130, R131). -/
def State.tickSt (s : State) : State :=
  if s.st = 0 then s
  else if s.st - 1 = 0 then (s.setSt (s.st - 1)).signalSoundStop
  else s.setSt (s.st - 1)

/-- timer_update(), at the end of every step (R130). -/
def State.timerUpdate (s : State) : State := s.tickDt.tickSt

/-! ## The step around an instruction (R61, R69) -/

/-- A transaction begins with no output (R69). -/
def State.beginTransaction (s : State) : State := { s with out := Outputs.none }

/-- FETCH: mem[ea(PC)] in bits 15..8, mem[ea(PC + 1)] in bits 7..0; PC is not changed (R61). -/
def State.fetch (s : State) : Word := s.readMem s.pc.toNat ++ s.readMem (s.pc.toNat + 1)

/-- Run the timer update after EXECUTE (R69). -/
def finishStep : Result → Result
  | .next t => .next t.timerUpdate
  | .fault f => .fault f
  | .refused r => .refused r

/-- One step: fetch, decode, execute, timer update, with `execute` for the decoded instruction and
`State.illegal` for an ILLEGAL word (R65, R69). -/
def runStep (execute : Instr → State → Result) (s : State) : Result :=
  match decodeWord s.fetch with
  | .ok i => finishStep (execute i s.beginTransaction)
  | .error _ => finishStep (.next (s.beginTransaction.illegal s.fetch))

/-- Lay the word `w` where the next fetch reads it: the high byte at PC, the low byte at PC + 1 (R43, R61). -/
def State.placeWord (s : State) (w : Word) : State :=
  (s.writeMem s.pc.toNat (highByte w)).writeMem (s.pc.toNat + 1) (lowByte w)

end Sys2Proof.Machine
end

