-- ==== Sys2Proof/Machine/Operands.lean ====
section
/-! DEFINITION. The operand forms: zero-extended immediates (spec 30_encoding R60), the shift source
(42_alu R98, R100), the register range of FX55 and FX65 (43_index_memory R109), the glyph address
(R105) and the decimal digits (R106). -/

namespace Sys2Proof.Machine

/-- zext_16(nnn) (R10, R60). -/
def addrWord (nnn : Addr) : Word := nnn.setWidth 16

/-- zext_16 of a byte (R10). -/
def byteWord (b : Byte) : Word := b.setWidth 16

/-- The source of 8XY6 and 8XYE, by SHIFT_SOURCE (R98, R100). -/
def State.shiftSource (s : State) (x y : Reg) : Byte :=
  match s.cfg.shiftSource with
  | .vx => s.getV x
  | .vy => s.getV y

/-- range_regs(x), in rising order, by LOADSTORE_RANGE (R109). -/
def rangeRegs (c : Config) (x : Reg) : List Reg :=
  match c.loadStoreRange with
  | .inclusive => (List.finRange 16).filter (fun k => k ≤ x)
  | .exclusive => (List.finRange 16).filter (fun k => k < x)

/-- 0x050 + 5 * V[x], with the full byte (R105, D13). -/
def glyphAddress (b : Byte) : Word := BitVec.ofNat 16 (fontBase + 5 * b.toNat)

/-- v / 100 (R106). -/
def hundreds (b : Byte) : Byte := BitVec.ofNat 8 (b.toNat / 100)

/-- (v / 10) % 10 (R106). -/
def tens (b : Byte) : Byte := BitVec.ofNat 8 (b.toNat / 10 % 10)

/-- v % 10 (R106). -/
def units (b : Byte) : Byte := BitVec.ofNat 8 (b.toNat % 10)

/-- The address of the k-th byte an access through I touches, not truncated (R56). -/
def State.indexed (s : State) (k : Nat) : Nat := s.regI.toNat + k

end Sys2Proof.Machine
end

