-- ==== Sys2Proof/Machine/Flags.lean ====
section
/-! DEFINITION. The values written to VF (spec 10_state R16, 42_alu R88) and the order in which a result
and its flag are written (R89). -/

namespace Sys2Proof.Machine

/-- A flag as the byte VF holds: 1 or 0 (R16). -/
def flagByte (f : Bool) : Byte := if f then 1 else 0

/-- The carry of a + b: a + b > 255 (R88, R96). -/
def addCarry (a b : Byte) : Bool := decide (a.toNat + b.toNat > 255)

/-- No borrow in a - b: not b > a (R88, R97, R99). -/
def subNoBorrow (a b : Byte) : Bool := !decide (b.toNat > a.toNat)

/-- The bit a right shift drops, bit 0 (R88, R98). -/
def shrOut (a : Byte) : Bool := a.getLsbD 0

/-- The bit a left shift drops, bit 7 (R88, R100). -/
def shlOut (a : Byte) : Bool := a.getLsbD 7

/-- write_rf(x, r, f), by VF_ORDER (R89). -/
def State.writeRF (s : State) (x : Reg) (r : Byte) (f : Bool) : State :=
  match s.cfg.vfOrder with
  | .flagLast => (s.setV x r).setV vf (flagByte f)
  | .resultLast => (s.setV vf (flagByte f)).setV x r

/-- FX1E_OVERFLOW_LIMIT as a number (R104). -/
def fx1eLimitValue (c : Config) : Nat :=
  match c.fx1eLimit with
  | .reg16 => 0xFFFF
  | .addr12 => 0x0FFF

/-- VF after FX1E with the untruncated sum `t` (R104). -/
def State.writeFx1eFlag (s : State) (t : Nat) : State :=
  if t > fx1eLimitValue s.cfg then s.setV vf 1
  else
    match s.cfg.fx1eNoOverflow with
    | .clear => s.setV vf 0
    | .keep => s

end Sys2Proof.Machine
end

