-- ==== Sys2Proof/Machine/Alu.lean ====
section
/-! DEFINITION. Register and ALU instructions (spec 42_alu R90 to R101). Every operand is read before any
register is written (R102). -/

namespace Sys2Proof.Machine

/-- 6XNN (R90). -/
def execLdImm (x : Reg) (nn : Byte) (s : State) : Result := .next (s.setV x nn).advance

/-- 7XNN, no flag (R91). -/
def execAddImm (x : Reg) (nn : Byte) (s : State) : Result := .next (s.setV x (s.getV x + nn)).advance

/-- 8XY0 (R92). -/
def execLdReg (x y : Reg) (s : State) : Result := .next (s.setV x (s.getV y)).advance

/-- 8XY1, VF not written as a flag (R93). -/
def execOrReg (x y : Reg) (s : State) : Result := .next (s.setV x (s.getV x ||| s.getV y)).advance

/-- 8XY2 (R94). -/
def execAndReg (x y : Reg) (s : State) : Result := .next (s.setV x (s.getV x &&& s.getV y)).advance

/-- 8XY3 (R95). -/
def execXorReg (x y : Reg) (s : State) : Result := .next (s.setV x (s.getV x ^^^ s.getV y)).advance

/-- 8XY4 (R96). -/
def execAddReg (x y : Reg) (s : State) : Result :=
  .next (s.writeRF x (s.getV x + s.getV y) (addCarry (s.getV x) (s.getV y))).advance

/-- 8XY5 (R97). -/
def execSubReg (x y : Reg) (s : State) : Result :=
  .next (s.writeRF x (s.getV x - s.getV y) (subNoBorrow (s.getV x) (s.getV y))).advance

/-- 8XY6 (R98). -/
def execShrReg (x y : Reg) (s : State) : Result :=
  .next (s.writeRF x (s.shiftSource x y >>> 1) (shrOut (s.shiftSource x y))).advance

/-- 8XY7, the borrow being that of V[y] - V[x] (R99, D7). -/
def execSubnReg (x y : Reg) (s : State) : Result :=
  .next (s.writeRF x (s.getV y - s.getV x) (subNoBorrow (s.getV y) (s.getV x))).advance

/-- 8XYE (R100). -/
def execShlReg (x y : Reg) (s : State) : Result :=
  .next (s.writeRF x (s.shiftSource x y <<< 1) (shlOut (s.shiftSource x y))).advance

/-- CXNN (R101). -/
def execRnd (x : Reg) (nn : Byte) (s : State) : Result :=
  .next (s.randomByte.2.setV x (s.randomByte.1 &&& nn)).advance

end Sys2Proof.Machine
end

