-- ==== Sys2Proof/Machine/Control.lean ====
section
/-! DEFINITION. Control transfer: jumps, calls, returns and skips (spec 41_control R78 to R86). -/

namespace Sys2Proof.Machine

/-- 00EE (R78). -/
def execRet (s : State) : Result :=
  match s.pop (encode .ret) with
  | (some t, s') => .next (s'.setPc (t + 2))
  | (none, s') => .next s'.stackFault

/-- 0NNN, a jump that pushes nothing (R79). -/
def execSys (nnn : Addr) (s : State) : Result := .next (s.setPc (addrWord nnn))

/-- 1NNN (R80). -/
def execJp (nnn : Addr) (s : State) : Result := .next (s.setPc (addrWord nnn))

/-- 2NNN; the pushed value is the address of the call itself (R81). -/
def execCall (nnn : Addr) (s : State) : Result :=
  match s.push s.pc (encode (.call nnn)) with
  | (true, s') => .next (s'.setPc (addrWord nnn))
  | (false, s') => .next s'.stackFault

/-- 3XNN (R82). -/
def execSeImm (x : Reg) (nn : Byte) (s : State) : Result := .next (s.skipIf (s.getV x == nn))

/-- 4XNN (R83). -/
def execSneImm (x : Reg) (nn : Byte) (s : State) : Result := .next (s.skipIf (s.getV x != nn))

/-- 5XY0 (R84). -/
def execSeReg (x y : Reg) (s : State) : Result := .next (s.skipIf (s.getV x == s.getV y))

/-- 9XY0 (R85). -/
def execSneReg (x y : Reg) (s : State) : Result := .next (s.skipIf (s.getV x != s.getV y))

/-- BNNN, always with V0 (R86). -/
def execJpV0 (nnn : Addr) (s : State) : Result := .next (s.setPc (addrWord nnn + byteWord (s.getV 0)))

end Sys2Proof.Machine
end

