-- ==== Sys2Proof/Machine/Display.lean ====
section
/-! DEFINITION. The display instructions 00E0 and DXYN (spec 40_display R72 to R74). -/

namespace Sys2Proof.Machine

/-- One set bit of a sprite: VF <- 1 if the pixel was on, and the pixel toggles (R73). -/
def State.togglePixel (s : State) (r c : Nat) : State :=
  let old := s.pixel r c
  (if old = 1 then s.setV vf 1 else s).setFb (pixelIndex r c) (1 - old)

/-- One row of a sprite: the byte `b` at row offset `r` from the origin (ox, oy), bit 7 leftmost, each
coordinate wrapping (R73). -/
def State.drawRow (s : State) (ox oy r : Nat) (b : Byte) : State :=
  (List.range 8).foldl
    (fun t c =>
      if b.getLsbD (7 - c) then t.togglePixel ((oy + r) % screenRows) ((ox + c) % screenColumns) else t)
    s

/-- The n rows of a sprite whose bytes stand at `base` (R73); no row for n = 0 (R74). -/
def State.drawSprite (s : State) (ox oy base n : Nat) : State :=
  (List.range n).foldl (fun t r => t.drawRow ox oy r (t.readMem (base + r))) s

/-- 00E0 (R72). -/
def execCls (s : State) : Result := .next ((s.clearFb.setDrawFlag true).advance)

/-- DXYN (R73, R74); the origin and I are read before VF is cleared (D18). -/
def execDrw (x y : Reg) (n : Nibble) (s : State) : Result :=
  .next ((((s.setV vf 0).drawSprite (s.getV x).toNat (s.getV y).toNat s.regI.toNat n.toNat).setDrawFlag
    true).advance)

end Sys2Proof.Machine
end

