-- ==== Sys2Proof/Machine/IndexMemory.lean ====
section
/-! DEFINITION. The index register and memory instructions (spec 43_index_memory R103 to R108). No memory
access changes I (R110). -/

namespace Sys2Proof.Machine

/-- ANNN (R103). -/
def execLdI (nnn : Addr) (s : State) : Result := .next (s.setI (addrWord nnn)).advance

/-- FX1E: I <- u16(I + V[x]), and VF by the untruncated sum (R104). -/
def execAddI (x : Reg) (s : State) : Result :=
  .next ((s.setI (s.regI + byteWord (s.getV x))).writeFx1eFlag (s.regI.toNat + (s.getV x).toNat)).advance

/-- FX29 (R105). -/
def execLdF (x : Reg) (s : State) : Result := .next (s.setI (glyphAddress (s.getV x))).advance

/-- FX33: hundreds, tens, units at I, I + 1, I + 2, in that order (R106). -/
def execLdB (x : Reg) (s : State) : Result :=
  .next (((s.writeMem (s.indexed 0) (hundreds (s.getV x))).writeMem (s.indexed 1) (tens (s.getV x))).writeMem
    (s.indexed 2) (units (s.getV x))).advance

/-- The stores of FX55, in the order of `ks` (R107). -/
def State.storeRange (s : State) (ks : List Reg) : State :=
  ks.foldl (fun t k => t.writeMem (t.indexed k.val) (t.getV k)) s

/-- The loads of FX65, in the order of `ks` (R108). -/
def State.loadRange (s : State) (ks : List Reg) : State :=
  ks.foldl (fun t k => t.setV k (t.readMem (t.indexed k.val))) s

/-- FX55 (R107, R109). -/
def execStoreRegs (x : Reg) (s : State) : Result := .next (s.storeRange (rangeRegs s.cfg x)).advance

/-- FX65 (R108, R109). -/
def execLoadRegs (x : Reg) (s : State) : Result := .next (s.loadRange (rangeRegs s.cfg x)).advance

end Sys2Proof.Machine
end

