-- ==== Sys2Proof/Machine/KeysTimers.lean ====
section
/-! DEFINITION. Key input and timer instructions (spec 44_keys_timers R112 to R117). The timer update
after them is the step's (R69). -/

namespace Sys2Proof.Machine

/-- EX9E (R112). -/
def execSkp (x : Reg) (s : State) : Result :=
  .next ((s.pressed (s.getV x)).2.skipIf (s.pressed (s.getV x)).1)

/-- EXA1 (R113). -/
def execSknp (x : Reg) (s : State) : Result :=
  .next ((s.pressed (s.getV x)).2.skipIf (!(s.pressed (s.getV x)).1))

/-- FX07 (R114). -/
def execLdVDt (x : Reg) (s : State) : Result := .next (s.setV x s.dt).advance

/-- FX0A: with no key pressed PC stays, so that the next step fetches it again (R115). -/
def execLdVKey (x : Reg) (s : State) : Result :=
  match s.pressedKeys with
  | [] => .next s
  | k :: ks =>
    .next ((s.selectKey k ks).2.setV x (BitVec.ofNat 8 (s.selectKey k ks).1.val)).advance

/-- FX15 (R116). -/
def execLdDt (x : Reg) (s : State) : Result := .next (s.setDt (s.getV x)).advance

/-- FX18; a write of 0 is no decrement, so it signals nothing (R117, R131). -/
def execLdSt (x : Reg) (s : State) : Result := .next (s.setSt (s.getV x)).advance

end Sys2Proof.Machine
end

