-- ==== Sys2Proof/Machine/Step.lean ====
section
/-! DEFINITION. The step transaction (spec 30_encoding R69), and placing an instruction where the next
fetch reads it. -/

namespace Sys2Proof.Machine

/-- One fetch-decode-execute-timer cycle (R69). -/
def step (s : State) : Host.Outcome State Fault Refusal := runStep exec s

/-- `s` with the instruction whose bits are `w`, numbered as the opcode table numbers them, stored where
the next step fetches it. It stands for a load of the program that holds it (log entry 8). -/
def State.withFetchWord (s : State) (nbits w : Nat) : State := s.placeWord (tableWord nbits w)

end Sys2Proof.Machine
end

