-- ==== Sys2Proof/Machine/Assembler.lean ====
section
/-! DEFINITION. The assembler lines of spec 30_encoding R67 and R68, which have no semantic effect: lines
as plain data, and what they assemble to. Labels stand for addresses and are resolved before (R67). -/

namespace Sys2Proof.Machine

/-- An operand as R67 writes it. -/
inductive AsmOperand where
  /-- V0 to VF -/
  | v (x : Reg)
  /-- I -/
  | i
  /-- [I] -/
  | atI
  /-- DT -/
  | dt
  /-- ST -/
  | st
  /-- K -/
  | k
  /-- F -/
  | f
  /-- B -/
  | b
  /-- addr, a 12-bit number -/
  | addr (nnn : Addr)
  /-- byte, an 8-bit number -/
  | byte (nn : Byte)
  /-- nibble, a 4-bit number -/
  | nibble (n : Nibble)
  deriving DecidableEq, Repr

/-- One line: a mnemonic and its operands (R67). -/
structure AsmLine where
  mnemonic : String
  operands : List AsmOperand
  deriving DecidableEq, Repr

/-- A line of a program: an instruction, or DB with data bytes (R67). -/
inductive AsmItem where
  | line (l : AsmLine)
  | db (bytes : List Byte)
  deriving DecidableEq, Repr

/-- The line of an instruction (R67). -/
def asmOf : Instr → AsmLine
  | .cls => ⟨"CLS", []⟩
  | .ret => ⟨"RET", []⟩
  | .sys nnn => ⟨"SYS", [.addr nnn]⟩
  | .jp nnn => ⟨"JP", [.addr nnn]⟩
  | .call nnn => ⟨"CALL", [.addr nnn]⟩
  | .seImm x nn => ⟨"SE", [.v x, .byte nn]⟩
  | .sneImm x nn => ⟨"SNE", [.v x, .byte nn]⟩
  | .seReg x y => ⟨"SE", [.v x, .v y]⟩
  | .ldImm x nn => ⟨"LD", [.v x, .byte nn]⟩
  | .addImm x nn => ⟨"ADD", [.v x, .byte nn]⟩
  | .ldReg x y => ⟨"LD", [.v x, .v y]⟩
  | .orReg x y => ⟨"OR", [.v x, .v y]⟩
  | .andReg x y => ⟨"AND", [.v x, .v y]⟩
  | .xorReg x y => ⟨"XOR", [.v x, .v y]⟩
  | .addReg x y => ⟨"ADD", [.v x, .v y]⟩
  | .subReg x y => ⟨"SUB", [.v x, .v y]⟩
  | .shrReg x y => ⟨"SHR", [.v x, .v y]⟩
  | .subnReg x y => ⟨"SUBN", [.v x, .v y]⟩
  | .shlReg x y => ⟨"SHL", [.v x, .v y]⟩
  | .sneReg x y => ⟨"SNE", [.v x, .v y]⟩
  | .ldI nnn => ⟨"LD", [.i, .addr nnn]⟩
  | .jpV0 nnn => ⟨"JP", [.v 0, .addr nnn]⟩
  | .rnd x nn => ⟨"RND", [.v x, .byte nn]⟩
  | .drw x y n => ⟨"DRW", [.v x, .v y, .nibble n]⟩
  | .skp x => ⟨"SKP", [.v x]⟩
  | .sknp x => ⟨"SKNP", [.v x]⟩
  | .ldVDt x => ⟨"LD", [.v x, .dt]⟩
  | .ldVKey x => ⟨"LD", [.v x, .k]⟩
  | .ldDt x => ⟨"LD", [.dt, .v x]⟩
  | .ldSt x => ⟨"LD", [.st, .v x]⟩
  | .addI x => ⟨"ADD", [.i, .v x]⟩
  | .ldF x => ⟨"LD", [.f, .v x]⟩
  | .ldB x => ⟨"LD", [.b, .v x]⟩
  | .storeRegs x => ⟨"LD", [.atI, .v x]⟩
  | .loadRegs x => ⟨"LD", [.v x, .atI]⟩

/-- The instructions a line with these operands may be, one per mnemonic that takes them (R67). SHR and SHL
assemble with y = 0 when their second operand is omitted. -/
def asmForms : List AsmOperand → List Instr
  | [] => [.cls, .ret]
  | [.addr nnn] => [.sys nnn, .jp nnn, .call nnn]
  | [.v x, .byte nn] => [.seImm x nn, .sneImm x nn, .ldImm x nn, .addImm x nn, .rnd x nn]
  | [.v x, .v y] =>
    [.seReg x y, .ldReg x y, .orReg x y, .andReg x y, .xorReg x y, .addReg x y, .subReg x y, .shrReg x y,
     .subnReg x y, .shlReg x y, .sneReg x y]
  | [.i, .addr nnn] => [.ldI nnn]
  | [.v x, .addr nnn] => if x = 0 then [.jpV0 nnn] else []
  | [.v x, .v y, .nibble n] => [.drw x y n]
  | [.v x] => [.skp x, .sknp x, .shrReg x 0, .shlReg x 0]
  | [.v x, .dt] => [.ldVDt x]
  | [.v x, .k] => [.ldVKey x]
  | [.dt, .v x] => [.ldDt x]
  | [.st, .v x] => [.ldSt x]
  | [.i, .v x] => [.addI x]
  | [.f, .v x] => [.ldF x]
  | [.b, .v x] => [.ldB x]
  | [.atI, .v x] => [.storeRegs x]
  | [.v x, .atI] => [.loadRegs x]
  | _ => []

/-- The instruction a line assembles to, if it is one of R67's forms. -/
def assembleLine (l : AsmLine) : Option Instr :=
  (asmForms l.operands).find? (fun i => (asmOf i).mnemonic == l.mnemonic)

/-- The bytes of a program: each line is one word, high byte first, and DB is its bytes (R43, R67, R68). -/
def assemble : List AsmItem → Option (List Byte)
  | [] => some []
  | .line l :: rest =>
    match assembleLine l, assemble rest with
    | some i, some bs => some (encodeBytes i ++ bs)
    | _, _ => none
  | .db bytes :: rest =>
    match assemble rest with
    | some bs => some (bytes ++ bs)
    | none => none

end Sys2Proof.Machine
end

