-- ==== Sys2Proof/Machine/Transactions.lean ====
section
/-! DEFINITION. The host's side of the interface: what it may do between steps (spec 10_state R35, R37),
reset and load (70_reset_and_hazards R137 to R142), and the level outputs (R36). -/

namespace Sys2Proof.Machine

/-- reset(seed): every piece of the core's state takes its reset value (R137). The parameters are fixed
for the run (R8), and the model's draw number goes on, so that no two draws share a free value (log entry 3). -/
def State.hostReset (s : State) (seed : Int) : State :=
  { State.resetWith s.cfg seed with draws := s.draws }

/-- The copy loop of a load: byte k of the image at address `base` + k (R139). -/
def State.copyImage (s : State) (base : Nat) : List Byte → State
  | [] => s
  | b :: bs => (s.writeMem base b).copyImage (base + 1) bs

/-- The outputs of a load (R36). -/
def State.setLoadResult (s : State) (r : LoadResult) : State :=
  { s with out := { s.out with loadResult := some r } }

/-- load(image): up to 0xE00 bytes are copied to 0x200 and up (R139); a longer image raises LoadTooLarge
and leaves every piece of state as it was (R140). -/
def State.hostLoad (s : State) (image : List Byte) : State :=
  if image.length ≤ programAreaSize then
    (s.beginTransaction.copyImage programBase image).setLoadResult .success
  else (s.beginTransaction.raise (.loadTooLarge image.length)).setLoadResult .loadTooLarge

/-- A host write of one key (R35, R37). -/
def State.setKey (s : State) (k : Key) (down : Bool) : State := { s with key := s.key.set k.val down }

/-- soundOn = (ST != 0) (R36, R132). -/
def State.soundOn (s : State) : Bool := s.st != 0

/-- Everything the host may do to the block, each between transactions (R35, R37). -/
inductive HostAction where
  | reset (seed : Int)
  | load (image : List Byte)
  | step
  | setKey (k : Key) (down : Bool)
  | clearDrawFlag
  deriving DecidableEq, Repr

/-- The block after one host action (R35, R37). -/
def hostAct (a : HostAction) (s : State) : Result :=
  match a with
  | .reset seed => .next (s.hostReset seed)
  | .load image => .next (s.hostLoad image)
  | .step => step s
  | .setKey k down => .next (s.setKey k down)
  | .clearDrawFlag => .next (s.setDrawFlag false)

end Sys2Proof.Machine
end

