-- ==== Sys2Proof/Safety.lean ====
section
/-! DEFINITION. What a safe state is (spec 10_state R32), the terms in which the statements say what an
instruction leaves unchanged, and the idle loop (70_reset_and_hazards R144). -/

namespace Sys2Proof.Machine

/-! ## Safe states (R32) -/

/-- Every framebuffer byte is 0 or 1 (R25, R32). -/
abbrev State.PixelsBinary (s : State) : Prop := ∀ p ∈ s.fb, p.2 = 0 ∨ p.2 = 1

/-- R32, and that the two byte stores keep their canonical form within their arrays. 0 ≤ SP ≤ 16 holds
by SP's type. -/
abbrev State.Inv (s : State) : Prop :=
  Memory.wf (initialByte s.cfg) memorySize s.mem ∧ Memory.wf darkPixel screenSize s.fb ∧ s.PixelsBinary

/-! ## Frames -/

/-- Every byte of the core memory reads as before: through its index, and so through every address. -/
def SameMemory (s t : State) : Prop := (∀ k, t.byteAt k = s.byteAt k) ∧ ∀ a, t.readMem a = s.readMem a

/-- Every pixel reads as before, and drawFlag is as before. -/
def SameScreen (s t : State) : Prop := (∀ r c, t.pixel r c = s.pixel r c) ∧ t.drawFlag = s.drawFlag

/-- Every general register but those of `W` is as before. -/
def SameRegsBut (W : Reg → Prop) (s t : State) : Prop := ∀ r, ¬ W r → t.getV r = s.getV r

/-- SP and every stack slot are as before. -/
def SameStack (s t : State) : Prop := t.sp = s.sp ∧ t.stack = s.stack

/-- Both timers are as before. -/
def SameTimers (s t : State) : Prop := t.dt = s.dt ∧ t.st = s.st

/-- The key table and the parameters are as before: no step ever writes them (R8, R118). -/
def SameInputs (s t : State) : Prop := t.key = s.key ∧ t.cfg = s.cfg

/-- The pseudo-random state and the model's draw number are as before. -/
def SameRandom (s t : State) : Prop := t.seed = s.seed ∧ t.randCount = s.randCount ∧ t.draws = s.draws

/-- No diagnostic record, sound-stop event or load result was added. -/
def SameOutputs (s t : State) : Prop := t.out = s.out

/-- Everything but the general registers, I, PC and the core memory is as before. -/
def NonMemorySame (s t : State) : Prop :=
  SameScreen s t ∧ SameStack s t ∧ SameTimers s t ∧ SameInputs s t ∧ SameRandom s t ∧ SameOutputs s t

/-- Everything but the general registers, I and PC is as before. -/
def RestSame (s t : State) : Prop := SameMemory s t ∧ NonMemorySame s t

/-- The frame of an instruction that writes at most the general registers of `W` and PC. -/
def RegFrame (W : Reg → Prop) (s t : State) : Prop := SameRegsBut W s t ∧ t.regI = s.regI ∧ RestSame s t

/-- No general register. -/
def NoReg : Reg → Prop := fun _ => False

/-- The one general register `x`. -/
def OnlyReg (x : Reg) : Reg → Prop := fun r => r = x

/-- The general register `x` and VF. -/
def RegAndVf (x : Reg) : Reg → Prop := fun r => r = x ∨ r = vf

/-! ## Results and flags (R89) -/

/-- V[x] holds the result and VF the flag; for x = 15, VF holds the one VF_ORDER writes last (R89). -/
def ResultAndFlag (s t : State) (x : Reg) (result flag : Nat) : Prop :=
  (x ≠ vf → (t.getV x).toNat = result ∧ (t.getV vf).toNat = flag) ∧
  (x = vf → s.cfg.vfOrder = .flagLast → (t.getV vf).toNat = flag) ∧
  (x = vf → s.cfg.vfOrder = .resultLast → (t.getV vf).toNat = result)

/-- Register k is one FX55 or FX65 moves (R109). -/
def InRange (c : Config) (x k : Reg) : Prop :=
  match c.loadStoreRange with
  | .inclusive => k.val ≤ x.val
  | .exclusive => k.val < x.val

/-- `down` is what pressed(v) may answer (R111): under `draw` a value above 15 allows both answers. -/
def KeyLookup (s : State) (v : Byte) (down : Bool) : Prop :=
  (∀ k : Key, k.val = v.toNat → down = s.key[k.val]) ∧
  (15 < v.toNat → s.cfg.keyIndexPolicy = .lowNibble → ∀ k : Key, k.val = v.toNat % 16 → down = s.key[k.val]) ∧
  (15 < v.toNat → s.cfg.keyIndexPolicy = .notPressed → down = false)

/-- PC after a stack fault (R78, R81). -/
def FaultPc (s t : State) : Prop :=
  (s.cfg.stackFaultPc = .hold → t.pc = s.pc) ∧ (s.cfg.stackFaultPc = .advance → t.pc = s.pc + 2)

/-! ## Timers (R130) -/

/-- DT when the timer update of a step at `s` begins: FX15's value, or DT (R116, R130). -/
def dtBeforeUpdate (s : State) : Nat :=
  match decodeWord s.fetch with
  | .ok (.ldDt x) => (s.getV x).toNat
  | _ => s.dt.toNat

/-- ST when the timer update of a step at `s` begins: FX18's value, or ST (R117, R130). -/
def stBeforeUpdate (s : State) : Nat :=
  match decodeWord s.fetch with
  | .ok (.ldSt x) => (s.getV x).toNat
  | _ => s.st.toNat

/-! ## Runs -/

/-- `n` steps. -/
def runSteps : Nat → State → Result
  | 0, s => .next s
  | n + 1, s =>
    match step s with
    | .next t => runSteps n t
    | .fault f => .fault f
    | .refused r => .refused r

/-- A sequence of host actions (R37). -/
def runHost : List HostAction → State → Result
  | [], s => .next s
  | a :: as, s =>
    match hostAct a s with
    | .next t => runHost as t
    | .fault f => .fault f
    | .refused r => .refused r

/-! ## The footprint of a sprite (R73, R75) -/

/-- The pixel at row `r`, column `c` lies under a set bit of the sprite of `n` rows at `base`, drawn with
its origin at column `ox`, row `oy` (R73). -/
def State.SpriteCovers (s : State) (ox oy base n r c : Nat) : Prop :=
  ∃ i, i < n ∧ ∃ j, j < 8 ∧ r = (oy + i) % screenRows ∧ c = (ox + j) % screenColumns ∧
    (s.readMem (base + i)).getLsbD (7 - j) = true

/-! ## The values of reset (R33) -/

/-- Every piece of the core's state holds the value R33 gives it, for the parameters `c` and the seed. -/
def ResetValues (c : Config) (seed : Int) (s : State) : Prop :=
  (∀ k, k < fontBase → s.byteAt k = 0) ∧
  (∀ d j : Nat, (h : d < 16 ∧ j < 5) → s.byteAt (fontBase + 5 * d + j) = c.font[5 * d + j]'(by omega)) ∧
  (∀ k, 0x0A0 ≤ k → s.byteAt k = 0) ∧
  (∀ x, s.getV x = 0) ∧ s.regI = 0 ∧ s.pc = 0x200 ∧ s.sp = 0 ∧ (∀ k : Fin 16, s.stack[k.val] = 0) ∧
  s.dt = 0 ∧ s.st = 0 ∧ (∀ k : Key, s.key[k.val] = false) ∧ (∀ k, s.fbByte k = 0) ∧
  s.drawFlag = false ∧ s.seed = seed ∧ s.randCount = 0 ∧ s.cfg = c

/-! ## The idle loop (R144) -/

/-- PC holds an address p ≤ 0xFFF whose word is 1NNN with nnn = p. -/
def State.Idle (s : State) : Prop :=
  ∃ p : Addr, s.pc = addrWord p ∧ s.fetch = 0x1#4 ++ p

end Sys2Proof.Machine
end

