-- ==== Sys2Proof/Certificates/Slice0/Obligations.lean ====
section
/-! DEFINITION. The statements for the provers, in the order of OBLIGATIONS.json. -/

open Sys2Proof Sys2Proof.Machine

/-! ## Reset and the invariant -/

/-- R33, R137: after reset every piece of state holds its value. `State.reset` is such a state for some
parameters and seed; its own seed is the model's choice (log entry 5). That a host reset keeps the parameters
of R8 is deduced (log entry 14), and that it leaves the stored outputs clear is the model's storing of them
(log entry 2); R137 gives the count 0 and says that reset raises no record and no event. -/
def Obligations.ResetLeavesTheStatedValues : Prop :=
  (∃ c seed, ResetValues c seed State.reset) ∧
  ∀ (s : State) (seed : Int), ResetValues s.cfg seed (s.hostReset seed) ∧ (s.hostReset seed).out = Outputs.none

/-- R138: a second reset with the same seed changes nothing, and the state before a reset does not matter
but for the fixed parameters and the model's own draw number (log entry 3). -/
def Obligations.ResetForgetsTheStateBefore : Prop :=
  ∀ (as : List HostAction) (s t : State) (seed : Int), runHost as s = .next t →
    (t.hostReset seed).hostReset seed = t.hostReset seed ∧
    t.hostReset seed = { s.hostReset seed with draws := t.draws }

/-- R32: the invariant holds after reset, for every parameter value. -/
def Obligations.InvariantHoldsAtReset : Prop :=
  State.reset.Inv ∧ ∀ (c : Config) (seed : Int), (State.resetWith c seed).Inv

/-- R32: every step keeps the invariant: SP in [0,16], framebuffer bytes 0 or 1, every listed byte within
its array, both stores canonical. -/
def Obligations.StepKeepsTheInvariant : Prop :=
  ∀ s t : State, s.Inv → step s = .next t →
    t.Inv ∧ t.sp.val ≤ 16 ∧ ∀ k, t.fbByte k = 0 ∨ t.fbByte k = 1

/-- R32, R37, R119: whatever the host does, in any order, the block answers a next state that meets the
invariant. -/
def Obligations.HostHistoriesKeepTheInvariant : Prop :=
  ∀ (as : List HostAction) (s : State), s.Inv → ∃ t, runHost as s = .next t ∧ t.Inv ∧ t.cfg = s.cfg

/-- R119, R143: no condition halts the core. -/
def Obligations.StepAlwaysAnswersNext : Prop :=
  ∀ s : State, ∃ t, step s = .next t

/-! ## Encoding, fetch and the step -/

/-- R62, R63: decode and encode agree on every well-formed instruction, from its word and from its bytes. -/
def Obligations.DecodeOfEncodeIsTheInstruction : Prop :=
  ∀ (i : Instr) (rest : List Byte), i.WellFormed →
    decodeWord (encode i) = .ok i ∧ decodeBytes (encodeBytes i ++ rest) = .ok (i, rest)

/-- R59, R63: a word that decodes is the word of the instruction it decodes to. -/
def Obligations.EncodeOfDecodeIsTheWord : Prop :=
  ∀ (w : Word) (i : Instr), decodeWord w = .ok i → encode i = w ∧ i.WellFormed

/-- R63: words written out from the opcode map decode to their instructions. -/
def Obligations.SampleWordsDecode : Prop :=
  decodeWord 0x00E0 = .ok .cls ∧ decodeWord 0x00EE = .ok .ret ∧ decodeWord 0x00E1 = .ok (.sys 0x0E1) ∧
  decodeWord 0x2ABC = .ok (.call 0xABC) ∧ decodeWord 0x632A = .ok (.ldImm 3 0x2A) ∧
  decodeWord 0x81F4 = .ok (.addReg 1 15) ∧ decodeWord 0x840E = .ok (.shlReg 4 0) ∧
  decodeWord 0xD12F = .ok (.drw 1 2 15) ∧ decodeWord 0xE5A1 = .ok (.sknp 5) ∧
  decodeWord 0xFA33 = .ok (.ldB 10) ∧ decodeWord 0x5121 = .error (.illegalWord 0x5121)

/-- R62: the only rows that overlap are 00E0 and 00EE with 0NNN, so first-match order is most-specific
order. -/
def Obligations.OpcodeRowsOverlapOnlyInClassZero : Prop :=
  ∀ (w : Word) (j k : Fin opcodeRows.length), j < k →
    OpcodeRow.hits w opcodeRows[j] = true → OpcodeRow.hits w opcodeRows[k] = true →
    (w = 0x00E0 ∧ j.val = 0 ∨ w = 0x00EE ∧ j.val = 1) ∧ k.val = 2

/-- R64: the words that match no row. -/
def Obligations.IllegalWordsAreExactlyThese : Prop :=
  ∀ w : Word, decodeWord w = .error (.illegalWord w) ↔
    (w.toNat / 4096 = 0x5 ∨ w.toNat / 4096 = 0x9) ∧ w.toNat % 16 ≠ 0 ∨
    w.toNat / 4096 = 0x8 ∧ w.toNat % 16 ∈ [0x8, 0x9, 0xA, 0xB, 0xC, 0xD, 0xF] ∨
    w.toNat / 4096 = 0xE ∧ w.toNat % 256 ∉ [0x9E, 0xA1] ∨
    w.toNat / 4096 = 0xF ∧ w.toNat % 256 ∉ [0x07, 0x0A, 0x15, 0x18, 0x1E, 0x29, 0x33, 0x55, 0x65]

/-- R67, R68: the line of each instruction assembles to that instruction alone, SHR and SHL without their
second operand to y = 0, and each line of a program gives exactly the two bytes of its word. -/
def Obligations.LinesAssembleToTheirWords : Prop :=
  (∀ i : Instr, assembleLine (asmOf i) = some i) ∧
  (∀ x : Reg, assembleLine ⟨"SHR", [.v x]⟩ = some (.shrReg x 0) ∧ assembleLine ⟨"SHL", [.v x]⟩ = some (.shlReg x 0)) ∧
  (∀ (l : AsmLine) (i : Instr) (rest : List AsmItem) (bs : List Byte),
    assembleLine l = some i → assemble rest = some bs →
    assemble (.line l :: rest) = some (highByte (encode i) :: lowByte (encode i) :: bs))

/-- R61, with R40 and R56: the fetch reads mem[ea(PC)] into bits 15..8 and mem[ea(PC + 1)] into bits 7..0, the sum
untruncated and reduced by ADDR_POLICY. -/
def Obligations.FetchReadsTwoBytesBigEndian : Prop :=
  ∀ s : State,
    (s.cfg.addrPolicy = .wrap →
      s.fetch.toNat = (s.byteAt (s.pc.toNat % 4096)).toNat * 256 + (s.byteAt ((s.pc.toNat + 1) % 4096)).toNat) ∧
    (s.cfg.addrPolicy = .clamp →
      s.fetch.toNat = (s.byteAt (min s.pc.toNat 4095)).toNat * 256 + (s.byteAt (min (s.pc.toNat + 1) 4095)).toNat)

/-- R12, R40, R42, R48: a memory write sets the byte its address reduces to, whatever the address, and
every later read of another byte is as before. -/
def Obligations.MemoryWriteChangesOnlyItsByte : Prop :=
  ∀ (s : State) (a : Nat) (b : Byte),
    (s.cfg.addrPolicy = .wrap → (s.writeMem a b).byteAt (a % 4096) = b) ∧
    (s.cfg.addrPolicy = .clamp → (s.writeMem a b).byteAt (min a 4095) = b) ∧
    (∀ k, k ≠ ea s.cfg a → (s.writeMem a b).byteAt k = s.byteAt k) ∧
    (∀ a', (s.writeMem a b).readMem a' = if ea s.cfg a' = ea s.cfg a then b else s.readMem a')

/-- R43, R53, R61: an instruction stored at PC is the one the next step fetches, wherever its two bytes do
not fall on one index (PC at or above 0xFFF under clamp). -/
def Obligations.StoredInstructionIsFetchedNext : Prop :=
  ∀ (s : State) (nbits w : Nat), ea s.cfg s.pc.toNat ≠ ea s.cfg (s.pc.toNat + 1) →
    (s.withFetchWord nbits w).fetch.toNat = w % 2 ^ nbits % 65536 ∧
    ∀ i, decodeTableWord nbits w = some i ↔ decodeWord (s.withFetchWord nbits w).fetch = .ok i

/-- R69, R130: when the bytes at PC decode to an instruction, the step runs exactly it, on a state whose
outputs are cleared, and then counts both timers down; PC is what EXECUTE left. -/
def Obligations.StepRunsTheDecodedInstruction : Prop :=
  ∀ (s : State) (i : Instr), decodeWord (s.readMem s.pc.toNat ++ s.readMem (s.pc.toNat + 1)) = .ok i →
    step s =
      match exec i { s with out := Outputs.none } with
      | .next t => .next { t with
          dt := if t.dt = 0 then 0 else t.dt - 1
          st := if t.st = 0 then 0 else t.st - 1
          out := if t.st = 1 then { t.out with soundStop := true } else t.out }
      | .fault f => .fault f
      | .refused r => .refused r

/-- R65, R121: an ILLEGAL word raises one record, advances PC by 2 and changes nothing else but the timers. -/
def Obligations.IllegalWordIsAReportedNoOp : Prop :=
  ∀ (s : State) (e : DecodeError), decodeWord s.fetch = .error e →
    ∃ t, step s = .next t ∧ t.out.diag = [.illegalInstruction s.pc s.fetch] ∧ t.pc = s.pc + 2 ∧
      t.dt.toNat = s.dt.toNat - 1 ∧ t.st.toNat = s.st.toNat - 1 ∧
      SameRegsBut NoReg s t ∧ t.regI = s.regI ∧ SameMemory s t ∧ SameScreen s t ∧ SameStack s t ∧
      SameInputs s t ∧ SameRandom s t

/-! ## Display -/

/-- R72: 00E0. -/
def Obligations.ClsClearsTheScreen : Prop :=
  decodeWord 0x00E0 = .ok .cls ∧
  ∀ s : State, ∃ t, exec .cls s = .next t ∧ (∀ k, t.fbByte k = 0) ∧ t.drawFlag = true ∧ t.pc = s.pc + 2 ∧
    SameRegsBut NoReg s t ∧ t.regI = s.regI ∧ SameMemory s t ∧ SameStack s t ∧ SameTimers s t ∧
    SameInputs s t ∧ SameRandom s t ∧ SameOutputs s t

/-- R73, R74: DXYN toggles exactly the pixels under the sprite's set bits, VF tells whether one of them was
on, the origin being V[x] and V[y] from before VF is cleared. -/
def Obligations.DrwTogglesTheCoveredPixels : Prop :=
  ∀ (x y : Reg) (n : Nibble) (s : State),
    decodeWord (0xD#4 ++ regBits x ++ regBits y ++ n) = .ok (.drw x y n) ∧
    ∃ t, exec (.drw x y n) s = .next t ∧
      (∀ r c, r < 32 → c < 64 →
        (s.SpriteCovers (s.getV x).toNat (s.getV y).toNat s.regI.toNat n.toNat r c → t.pixel r c = 1 - s.pixel r c) ∧
        (¬ s.SpriteCovers (s.getV x).toNat (s.getV y).toNat s.regI.toNat n.toNat r c → t.pixel r c = s.pixel r c)) ∧
      (∀ k, 2048 ≤ k → t.fbByte k = s.fbByte k) ∧
      ((∃ r c, s.SpriteCovers (s.getV x).toNat (s.getV y).toNat s.regI.toNat n.toNat r c ∧ s.pixel r c = 1) →
        t.getV vf = 1) ∧
      ((¬ ∃ r c, s.SpriteCovers (s.getV x).toNat (s.getV y).toNat s.regI.toNat n.toNat r c ∧ s.pixel r c = 1) →
        t.getV vf = 0) ∧
      t.drawFlag = true ∧ t.pc = s.pc + 2 ∧
      SameRegsBut (OnlyReg vf) s t ∧ t.regI = s.regI ∧ SameMemory s t ∧ SameStack s t ∧ SameTimers s t ∧
      SameInputs s t ∧ SameRandom s t ∧ SameOutputs s t

/-- R75 property 3, and E7: a second draw of the same sprite at the same origin restores the framebuffer;
its VF is 1 exactly when a pixel under a set bit was off before the first draw, so on a screen that is off
there exactly when the sprite has a set bit. (R75's own words for VF leave out "was off before", see the
next statement and log entry 18.) -/
def Obligations.DrawingTwiceRestoresTheScreen : Prop :=
  ∀ (x y : Reg) (n : Nibble) (s t : State), s.Inv → exec (.drw x y n) s = .next t →
    t.getV x = s.getV x → t.getV y = s.getV y →
    ∃ u, exec (.drw x y n) t = .next u ∧ u.fb = s.fb ∧ (u.getV vf = 0 ∨ u.getV vf = 1) ∧
      (u.getV vf = 1 ↔
        ∃ r c, s.SpriteCovers (s.getV x).toNat (s.getV y).toNat s.regI.toNat n.toNat r c ∧ s.pixel r c = 0)

/-- R75 property 3 as its words read: the second draw sets VF = 1 exactly when the sprite has a set bit.
Expected to FAIL: where every pixel under a set bit was on before the first draw, all are off at the second
(R73), so no collision follows (log entry 18). -/
def Obligations.SecondDrawCollidesWheneverTheSpriteHasABit : Prop :=
  ∀ (x y : Reg) (n : Nibble) (s t u : State), s.Inv → exec (.drw x y n) s = .next t →
    t.getV x = s.getV x → t.getV y = s.getV y → exec (.drw x y n) t = .next u →
    (u.getV vf = 1 ↔ ∃ i, i < n.toNat ∧ ∃ j, j < 8 ∧ (s.readMem (s.regI.toNat + i)).getLsbD j = true)

/-! ## Control transfer -/

/-- R77, R78, R123: 00EE with a return address, and its underflow. -/
def Obligations.RetPopsOrReportsUnderflow : Prop :=
  decodeWord 0x00EE = .ok .ret ∧
  ∀ s : State,
    ((h : 0 < s.sp.val) → ∃ t, exec .ret s = .next t ∧ t.sp.val = s.sp.val - 1 ∧
      t.pc = s.stack[s.sp.val - 1]'(by omega) + 2 ∧ t.stack = s.stack ∧
      SameRegsBut NoReg s t ∧ t.regI = s.regI ∧ SameMemory s t ∧ SameScreen s t ∧ SameTimers s t ∧
      SameInputs s t ∧ SameRandom s t ∧ SameOutputs s t) ∧
    (s.sp.val = 0 → ∃ t, exec .ret s = .next t ∧ FaultPc s t ∧
      t.out = { s.out with diag := s.out.diag ++ [.stackUnderflow s.pc 0x00EE] } ∧
      SameRegsBut NoReg s t ∧ t.regI = s.regI ∧ SameMemory s t ∧ SameScreen s t ∧ SameStack s t ∧
      SameTimers s t ∧ SameInputs s t ∧ SameRandom s t)

/-- R76, R81, R122: 2NNN with room on the stack, and its overflow. -/
def Obligations.CallPushesOrReportsOverflow : Prop :=
  ∀ (nnn : Addr) (s : State), decodeWord (0x2#4 ++ nnn) = .ok (.call nnn) ∧
    ((h : s.sp.val < 16) → ∃ t, exec (.call nnn) s = .next t ∧ t.sp.val = s.sp.val + 1 ∧
      t.stack[s.sp.val] = s.pc ∧ (∀ k : Fin 16, k.val ≠ s.sp.val → t.stack[k.val] = s.stack[k.val]) ∧
      t.pc.toNat = nnn.toNat ∧
      SameRegsBut NoReg s t ∧ t.regI = s.regI ∧ SameMemory s t ∧ SameScreen s t ∧ SameTimers s t ∧
      SameInputs s t ∧ SameRandom s t ∧ SameOutputs s t) ∧
    (s.sp.val = 16 → ∃ t, exec (.call nnn) s = .next t ∧ FaultPc s t ∧
      t.out = { s.out with diag := s.out.diag ++ [.stackOverflow s.pc (0x2#4 ++ nnn)] } ∧
      SameRegsBut NoReg s t ∧ t.regI = s.regI ∧ SameMemory s t ∧ SameScreen s t ∧ SameStack s t ∧
      SameTimers s t ∧ SameInputs s t ∧ SameRandom s t)

/-- R78, R81: a return from wherever the subroutine has got to resumes after the call, with SP and the slots
below as before. -/
def Obligations.ReturnResumesAfterTheCall : Prop :=
  ∀ (nnn : Addr) (s : State) (p : Word), s.sp.val < 16 →
    ∃ t u, exec (.call nnn) s = .next t ∧ exec .ret (t.setPc p) = .next u ∧ u.pc = s.pc + 2 ∧ u.sp = s.sp ∧
      ∀ k : Fin 16, k.val < s.sp.val → u.stack[k.val] = s.stack[k.val]

/-- R79, R80: 0NNN and 1NNN set PC to nnn and change nothing else; nothing is pushed. -/
def Obligations.JumpsSetPc : Prop :=
  ∀ (nnn : Addr) (s : State),
    (nnn ≠ 0x0E0 → nnn ≠ 0x0EE → decodeWord (0x0#4 ++ nnn) = .ok (.sys nnn)) ∧
    decodeWord (0x1#4 ++ nnn) = .ok (.jp nnn) ∧
    (∃ t, exec (.sys nnn) s = .next t ∧ t.pc.toNat = nnn.toNat ∧ RegFrame NoReg s t) ∧
    (∃ t, exec (.jp nnn) s = .next t ∧ t.pc.toNat = nnn.toNat ∧ RegFrame NoReg s t)

/-- R70, R82, R83: the skips that compare with an immediate. -/
def Obligations.ImmediateSkips : Prop :=
  ∀ (x : Reg) (nn : Byte) (s : State),
    decodeWord (0x3#4 ++ regBits x ++ nn) = .ok (.seImm x nn) ∧
    decodeWord (0x4#4 ++ regBits x ++ nn) = .ok (.sneImm x nn) ∧
    (∃ t, exec (.seImm x nn) s = .next t ∧
      t.pc = (if s.getV x = nn then s.pc + 4 else s.pc + 2) ∧ RegFrame NoReg s t) ∧
    (∃ t, exec (.sneImm x nn) s = .next t ∧
      t.pc = (if s.getV x = nn then s.pc + 2 else s.pc + 4) ∧ RegFrame NoReg s t)

/-- R70, R84, R85: the skips that compare two registers. -/
def Obligations.RegisterSkips : Prop :=
  ∀ (x y : Reg) (s : State),
    decodeWord (0x5#4 ++ regBits x ++ regBits y ++ 0x0#4) = .ok (.seReg x y) ∧
    decodeWord (0x9#4 ++ regBits x ++ regBits y ++ 0x0#4) = .ok (.sneReg x y) ∧
    (∃ t, exec (.seReg x y) s = .next t ∧
      t.pc = (if s.getV x = s.getV y then s.pc + 4 else s.pc + 2) ∧ RegFrame NoReg s t) ∧
    (∃ t, exec (.sneReg x y) s = .next t ∧
      t.pc = (if s.getV x = s.getV y then s.pc + 2 else s.pc + 4) ∧ RegFrame NoReg s t)

/-- R86: BNNN adds V0 to nnn; the sum is kept unmasked. -/
def Obligations.JumpWithOffsetAddsV0 : Prop :=
  ∀ (nnn : Addr) (s : State), decodeWord (0xB#4 ++ nnn) = .ok (.jpV0 nnn) ∧
    ∃ t, exec (.jpV0 nnn) s = .next t ∧ t.pc.toNat = nnn.toNat + (s.getV 0).toNat ∧ RegFrame NoReg s t

/-! ## Registers and ALU -/

/-- R90, R92: 6XNN and 8XY0. -/
def Obligations.LoadsOfImmediatesAndCopies : Prop :=
  ∀ (x y : Reg) (nn : Byte) (s : State),
    decodeWord (0x6#4 ++ regBits x ++ nn) = .ok (.ldImm x nn) ∧
    decodeWord (0x8#4 ++ regBits x ++ regBits y ++ 0x0#4) = .ok (.ldReg x y) ∧
    (∃ t, exec (.ldImm x nn) s = .next t ∧ t.getV x = nn ∧ t.pc = s.pc + 2 ∧ RegFrame (OnlyReg x) s t) ∧
    (∃ t, exec (.ldReg x y) s = .next t ∧ t.getV x = s.getV y ∧ t.pc = s.pc + 2 ∧ RegFrame (OnlyReg x) s t)

/-- R91: 7XNN wraps and records no carry. -/
def Obligations.AddImmediateWrapsWithoutFlag : Prop :=
  ∀ (x : Reg) (nn : Byte) (s : State), decodeWord (0x7#4 ++ regBits x ++ nn) = .ok (.addImm x nn) ∧
    ∃ t, exec (.addImm x nn) s = .next t ∧ (t.getV x).toNat = ((s.getV x).toNat + nn.toNat) % 256 ∧
      t.pc = s.pc + 2 ∧ RegFrame (OnlyReg x) s t

/-- R93, R94, R95: OR, AND and XOR work bit by bit and leave VF alone unless it is the destination. -/
def Obligations.LogicWorksBitByBit : Prop :=
  ∀ (x y : Reg) (s : State),
    decodeWord (0x8#4 ++ regBits x ++ regBits y ++ 0x1#4) = .ok (.orReg x y) ∧
    decodeWord (0x8#4 ++ regBits x ++ regBits y ++ 0x2#4) = .ok (.andReg x y) ∧
    decodeWord (0x8#4 ++ regBits x ++ regBits y ++ 0x3#4) = .ok (.xorReg x y) ∧
    (∃ t, exec (.orReg x y) s = .next t ∧ t.pc = s.pc + 2 ∧ RegFrame (OnlyReg x) s t ∧
      ∀ k, (t.getV x).getLsbD k = ((s.getV x).getLsbD k || (s.getV y).getLsbD k)) ∧
    (∃ t, exec (.andReg x y) s = .next t ∧ t.pc = s.pc + 2 ∧ RegFrame (OnlyReg x) s t ∧
      ∀ k, (t.getV x).getLsbD k = ((s.getV x).getLsbD k && (s.getV y).getLsbD k)) ∧
    (∃ t, exec (.xorReg x y) s = .next t ∧ t.pc = s.pc + 2 ∧ RegFrame (OnlyReg x) s t ∧
      ∀ k, (t.getV x).getLsbD k = ((s.getV x).getLsbD k != (s.getV y).getLsbD k))

/-- R89, R96: 8XY4. -/
def Obligations.AddSetsTheCarry : Prop :=
  ∀ (x y : Reg) (s : State),
    decodeWord (0x8#4 ++ regBits x ++ regBits y ++ 0x4#4) = .ok (.addReg x y) ∧
    ∃ t, exec (.addReg x y) s = .next t ∧ t.pc = s.pc + 2 ∧ RegFrame (RegAndVf x) s t ∧
      ResultAndFlag s t x (((s.getV x).toNat + (s.getV y).toNat) % 256)
        (if (s.getV x).toNat + (s.getV y).toNat > 255 then 1 else 0)

/-- R89, R97, R99: 8XY5 and 8XY7, VF = 0 exactly on a borrow of the subtraction performed. -/
def Obligations.SubtractionsSetTheInvertedBorrow : Prop :=
  ∀ (x y : Reg) (s : State),
    decodeWord (0x8#4 ++ regBits x ++ regBits y ++ 0x5#4) = .ok (.subReg x y) ∧
    decodeWord (0x8#4 ++ regBits x ++ regBits y ++ 0x7#4) = .ok (.subnReg x y) ∧
    (∃ t, exec (.subReg x y) s = .next t ∧ t.pc = s.pc + 2 ∧ RegFrame (RegAndVf x) s t ∧
      ResultAndFlag s t x ((256 + (s.getV x).toNat - (s.getV y).toNat) % 256)
        (if (s.getV y).toNat > (s.getV x).toNat then 0 else 1)) ∧
    (∃ t, exec (.subnReg x y) s = .next t ∧ t.pc = s.pc + 2 ∧ RegFrame (RegAndVf x) s t ∧
      ResultAndFlag s t x ((256 + (s.getV y).toNat - (s.getV x).toNat) % 256)
        (if (s.getV x).toNat > (s.getV y).toNat then 0 else 1))

/-- R89, R98, R100: 8XY6 and 8XYE shift the source SHIFT_SOURCE names and put the dropped bit into VF. -/
def Obligations.ShiftsDropABitIntoVf : Prop :=
  ∀ (x y : Reg) (s : State) (src : Reg),
    (s.cfg.shiftSource = .vx → src = x) → (s.cfg.shiftSource = .vy → src = y) →
    decodeWord (0x8#4 ++ regBits x ++ regBits y ++ 0x6#4) = .ok (.shrReg x y) ∧
    decodeWord (0x8#4 ++ regBits x ++ regBits y ++ 0xE#4) = .ok (.shlReg x y) ∧
    (∃ t, exec (.shrReg x y) s = .next t ∧ t.pc = s.pc + 2 ∧ RegFrame (RegAndVf x) s t ∧
      ResultAndFlag s t x ((s.getV src).toNat / 2) ((s.getV src).toNat % 2)) ∧
    (∃ t, exec (.shlReg x y) s = .next t ∧ t.pc = s.pc + 2 ∧ RegFrame (RegAndVf x) s t ∧
      ResultAndFlag s t x ((s.getV src).toNat * 2 % 256) ((s.getV src).toNat / 128))

/-- R101: CXNN masks a byte that is free under `draw`, and the function of seed and count otherwise. -/
def Obligations.RandomByteIsMasked : Prop :=
  ∀ (x : Reg) (nn : Byte) (s : State), decodeWord (0xC#4 ++ regBits x ++ nn) = .ok (.rnd x nn) ∧
    ∃ t rb, exec (.rnd x nn) s = .next t ∧ t.getV x = rb &&& nn ∧ (nn = 0 → t.getV x = 0) ∧
      (s.cfg.randomSource = .draw → t.randCount = s.randCount) ∧
      (s.cfg.randomSource = .seeded →
        rb = Config.randomFn s.seed s.randCount ∧ t.randCount = s.randCount + 1) ∧
      t.pc = s.pc + 2 ∧ SameRegsBut (OnlyReg x) s t ∧ t.regI = s.regI ∧ SameMemory s t ∧ SameScreen s t ∧
      SameStack s t ∧ SameTimers s t ∧ SameInputs s t ∧ t.seed = s.seed ∧ SameOutputs s t

/-! ## Index register and memory -/

/-- R103, R105: ANNN and FX29 set I. -/
def Obligations.LoadsOfTheIndexRegister : Prop :=
  ∀ (nnn : Addr) (x : Reg) (s : State),
    decodeWord (0xA#4 ++ nnn) = .ok (.ldI nnn) ∧ decodeWord (0xF#4 ++ regBits x ++ 0x29#8) = .ok (.ldF x) ∧
    (∃ t, exec (.ldI nnn) s = .next t ∧ t.regI.toNat = nnn.toNat ∧ t.pc = s.pc + 2 ∧
      SameRegsBut NoReg s t ∧ RestSame s t) ∧
    (∃ t, exec (.ldF x) s = .next t ∧ t.regI.toNat = 0x050 + 5 * (s.getV x).toNat ∧ t.pc = s.pc + 2 ∧
      SameRegsBut NoReg s t ∧ RestSame s t)

/-- R104: FX1E. -/
def Obligations.AddToIndexSetsVf : Prop :=
  ∀ (x : Reg) (s : State) (limit : Nat),
    (s.cfg.fx1eLimit = .reg16 → limit = 0xFFFF) → (s.cfg.fx1eLimit = .addr12 → limit = 0x0FFF) →
    decodeWord (0xF#4 ++ regBits x ++ 0x1E#8) = .ok (.addI x) ∧
    ∃ t, exec (.addI x) s = .next t ∧ t.regI.toNat = (s.regI.toNat + (s.getV x).toNat) % 65536 ∧
      (s.regI.toNat + (s.getV x).toNat > limit → t.getV vf = 1) ∧
      (s.regI.toNat + (s.getV x).toNat ≤ limit → s.cfg.fx1eNoOverflow = .clear → t.getV vf = 0) ∧
      (s.regI.toNat + (s.getV x).toNat ≤ limit → s.cfg.fx1eNoOverflow = .keep → t.getV vf = s.getV vf) ∧
      t.pc = s.pc + 2 ∧ SameRegsBut (OnlyReg vf) s t ∧ RestSame s t

/-- R106, R110: FX33 stores the decimal digits, the last write surviving where two share an index. Under
`clamp` two digits meet from I = 0xFFE up: the pseudocode of R106 says so, and its corner case, which names
I ≥ 0xFFD, is off by one (log entry 21). -/
def Obligations.BcdStoresTheDigits : Prop :=
  ∀ (x : Reg) (s : State), decodeWord (0xF#4 ++ regBits x ++ 0x33#8) = .ok (.ldB x) ∧
    ∃ t, exec (.ldB x) s = .next t ∧
      (t.byteAt (ea s.cfg (s.indexed 2))).toNat = (s.getV x).toNat % 10 ∧
      (ea s.cfg (s.indexed 1) ≠ ea s.cfg (s.indexed 2) →
        (t.byteAt (ea s.cfg (s.indexed 1))).toNat = (s.getV x).toNat / 10 % 10) ∧
      (ea s.cfg (s.indexed 0) ≠ ea s.cfg (s.indexed 1) → ea s.cfg (s.indexed 0) ≠ ea s.cfg (s.indexed 2) →
        (t.byteAt (ea s.cfg (s.indexed 0))).toNat = (s.getV x).toNat / 100) ∧
      (∀ k, k ≠ ea s.cfg (s.indexed 0) → k ≠ ea s.cfg (s.indexed 1) → k ≠ ea s.cfg (s.indexed 2) →
        t.byteAt k = s.byteAt k) ∧
      t.pc = s.pc + 2 ∧ SameRegsBut NoReg s t ∧ t.regI = s.regI ∧ NonMemorySame s t

/-- R107, R109, R110: FX55 stores the registers of the range from I up, the last write surviving where two
share an index, and no other byte. -/
def Obligations.StoreRegistersWritesTheRange : Prop :=
  ∀ (x : Reg) (s : State), decodeWord (0xF#4 ++ regBits x ++ 0x55#8) = .ok (.storeRegs x) ∧
    ∃ t, exec (.storeRegs x) s = .next t ∧
      (∀ k : Reg, InRange s.cfg x k →
        (∀ k' : Reg, InRange s.cfg x k' → k < k' → ea s.cfg (s.indexed k'.val) ≠ ea s.cfg (s.indexed k.val)) →
        t.byteAt (ea s.cfg (s.indexed k.val)) = s.getV k) ∧
      (∀ j, (∀ k : Reg, InRange s.cfg x k → ea s.cfg (s.indexed k.val) ≠ j) → t.byteAt j = s.byteAt j) ∧
      t.pc = s.pc + 2 ∧ SameRegsBut NoReg s t ∧ t.regI = s.regI ∧ NonMemorySame s t

/-- R108, R109, R110: FX65 loads the registers of the range from I up, and no other register. -/
def Obligations.LoadRegistersReadsTheRange : Prop :=
  ∀ (x : Reg) (s : State), decodeWord (0xF#4 ++ regBits x ++ 0x65#8) = .ok (.loadRegs x) ∧
    ∃ t, exec (.loadRegs x) s = .next t ∧
      (∀ k : Reg, InRange s.cfg x k → t.getV k = s.readMem (s.indexed k.val)) ∧
      t.pc = s.pc + 2 ∧ RegFrame (InRange s.cfg x) s t

/-! ## Keys and timers -/

/-- R111, R112, R113: EX9E and EXA1. -/
def Obligations.KeySkipsReadTheKeyTable : Prop :=
  ∀ (x : Reg) (s : State),
    decodeWord (0xE#4 ++ regBits x ++ 0x9E#8) = .ok (.skp x) ∧
    decodeWord (0xE#4 ++ regBits x ++ 0xA1#8) = .ok (.sknp x) ∧
    (∃ t down, exec (.skp x) s = .next t ∧ KeyLookup s (s.getV x) down ∧
      t.pc = (if down then s.pc + 4 else s.pc + 2) ∧ SameRegsBut NoReg s t ∧ t.regI = s.regI ∧ SameMemory s t ∧
      SameScreen s t ∧ SameStack s t ∧ SameTimers s t ∧ SameInputs s t ∧ t.seed = s.seed ∧
      t.randCount = s.randCount ∧ SameOutputs s t) ∧
    (∃ t down, exec (.sknp x) s = .next t ∧ KeyLookup s (s.getV x) down ∧
      t.pc = (if down then s.pc + 2 else s.pc + 4) ∧ SameRegsBut NoReg s t ∧ t.regI = s.regI ∧ SameMemory s t ∧
      SameScreen s t ∧ SameStack s t ∧ SameTimers s t ∧ SameInputs s t ∧ t.seed = s.seed ∧
      t.randCount = s.randCount ∧ SameOutputs s t)

/-- R115: FX0A repeats itself while no key is pressed, and takes a pressed key otherwise. -/
def Obligations.KeyWaitRepeatsOrTakesAKey : Prop :=
  ∀ (x : Reg) (s : State), decodeWord (0xF#4 ++ regBits x ++ 0x0A#8) = .ok (.ldVKey x) ∧
    ((∀ k : Key, s.key[k.val] = false) → exec (.ldVKey x) s = .next s) ∧
    (∀ k₀ : Key, s.key[k₀.val] = true →
      ∃ t, ∃ k : Key, exec (.ldVKey x) s = .next t ∧ s.key[k.val] = true ∧ (t.getV x).toNat = k.val ∧
        (s.cfg.keyWaitSelect = .lowest → ∀ j : Key, s.key[j.val] = true → k ≤ j) ∧
        t.pc = s.pc + 2 ∧ SameRegsBut (OnlyReg x) s t ∧ t.regI = s.regI ∧ SameMemory s t ∧ SameScreen s t ∧
        SameStack s t ∧ SameTimers s t ∧ SameInputs s t ∧ t.seed = s.seed ∧ t.randCount = s.randCount ∧
        SameOutputs s t)

/-- R114, R116, R117: EXECUTE of FX07, FX15 and FX18; the timer update is the step's. -/
def Obligations.TimerRegisterMoves : Prop :=
  ∀ (x : Reg) (s : State),
    decodeWord (0xF#4 ++ regBits x ++ 0x07#8) = .ok (.ldVDt x) ∧
    decodeWord (0xF#4 ++ regBits x ++ 0x15#8) = .ok (.ldDt x) ∧
    decodeWord (0xF#4 ++ regBits x ++ 0x18#8) = .ok (.ldSt x) ∧
    (∃ t, exec (.ldVDt x) s = .next t ∧ t.getV x = s.dt ∧ t.pc = s.pc + 2 ∧ RegFrame (OnlyReg x) s t) ∧
    (∃ t, exec (.ldDt x) s = .next t ∧ t.dt = s.getV x ∧ t.st = s.st ∧ t.pc = s.pc + 2 ∧
      SameRegsBut NoReg s t ∧ t.regI = s.regI ∧ SameMemory s t ∧ SameScreen s t ∧ SameStack s t ∧
      SameInputs s t ∧ SameRandom s t ∧ SameOutputs s t) ∧
    (∃ t, exec (.ldSt x) s = .next t ∧ t.st = s.getV x ∧ t.dt = s.dt ∧ t.pc = s.pc + 2 ∧
      SameRegsBut NoReg s t ∧ t.regI = s.regI ∧ SameMemory s t ∧ SameScreen s t ∧ SameStack s t ∧
      SameInputs s t ∧ SameRandom s t ∧ SameOutputs s t)

/-- R130, R117 and R131's first bullet: every step, whatever it executes, counts both timers down from what
EXECUTE left and raises the sound-stop event exactly when its timer update takes ST from 1 to 0; a reset clears
both timers and raises none. R131's second bullet, no event in a step that starts with ST = 0, is denied where
that step's FX18 writes 1, as R117 and VK16 have it (log entry 22). -/
def Obligations.EveryStepCountsTheTimersDown : Prop :=
  (∀ s t : State, step s = .next t →
    t.dt.toNat = dtBeforeUpdate s - 1 ∧ t.st.toNat = stBeforeUpdate s - 1 ∧
    (t.out.soundStop = true ↔ stBeforeUpdate s = 1)) ∧
  ∀ (s : State) (seed : Int),
    (s.hostReset seed).dt = 0 ∧ (s.hostReset seed).st = 0 ∧ (s.hostReset seed).out.soundStop = false

/-- R145, R155: over n steps none of which executes FX15 (or FX18), DT (or ST) falls by n, down to 0. -/
def Obligations.TimersCountSteps : Prop :=
  ∀ (n : Nat) (s t : State), runSteps n s = .next t →
    ((∀ j u x, j < n → runSteps j s = .next u → decodeWord u.fetch ≠ .ok (.ldDt x)) →
      t.dt.toNat = s.dt.toNat - n) ∧
    ((∀ j u x, j < n → runSteps j s = .next u → decodeWord u.fetch ≠ .ok (.ldSt x)) →
      t.st.toNat = s.st.toNat - n)

/-- R145: an FX07 that runs n + 1 steps after an FX15 wrote v reads v - (n + 1), or 0, when no other FX15
comes in between. -/
def Obligations.DelayTimerReadsTheWriteLessTheSteps : Prop :=
  ∀ (n : Nat) (x y : Reg) (s t u w : State),
    decodeWord s.fetch = .ok (.ldDt x) → step s = .next t → runSteps n t = .next u →
    (∀ j r z, j < n → runSteps j t = .next r → decodeWord r.fetch ≠ .ok (.ldDt z)) →
    decodeWord u.fetch = .ok (.ldVDt y) → step u = .next w →
    (w.getV y).toNat = (s.getV x).toNat - (n + 1)

/-- R146: after an FX18 that wrote v ≥ 1 in step s, and no other FX18, ST after step s + j is v - 1 - j, the
sound is on at the first v - 1 step boundaries, and the sound-stop event is raised in step s + v - 1. -/
def Obligations.SoundLastsAsWritten : Prop :=
  ∀ (x : Reg) (s t : State) (v : Nat),
    decodeWord s.fetch = .ok (.ldSt x) → (s.getV x).toNat = v → 1 ≤ v → step s = .next t →
    ∀ (j : Nat) (u : State), j < v → runSteps j t = .next u →
      (∀ i r z, i < j → runSteps i t = .next r → decodeWord r.fetch ≠ .ok (.ldSt z)) →
      u.st.toNat = v - 1 - j ∧ (u.soundOn = true ↔ j < v - 1) ∧ (u.out.soundStop = true ↔ j = v - 1)

/-! ## Rules of the whole machine -/

/-- R17, R110: a step changes I only by ANNN, FX1E or FX29. -/
def Obligations.OnlyThreeInstructionsWriteI : Prop :=
  ∀ s t : State, step s = .next t → t.regI ≠ s.regI →
    ∃ i, decodeWord s.fetch = .ok i ∧ ((∃ nnn, i = .ldI nnn) ∨ (∃ x, i = .addI x) ∨ (∃ x, i = .ldF x))

/-- R47: a step changes memory only by FX33 or FX55, and only within the bytes R47 gives them. -/
def Obligations.OnlyStoresWriteMemory : Prop :=
  ∀ (s t : State) (k : Nat), step s = .next t → t.byteAt k ≠ s.byteAt k →
    (∃ x, decodeWord s.fetch = .ok (.ldB x) ∧ ∃ j, j < 3 ∧ k = ea s.cfg (s.indexed j)) ∨
    (∃ x, decodeWord s.fetch = .ok (.storeRegs x) ∧
      ∃ j : Reg, InRange s.cfg x j ∧ k = ea s.cfg (s.indexed j.val))

/-- R20, R31: only 2NNN writes the stack, one slot at SP, and only 2NNN and 00EE move SP, by one. -/
def Obligations.OnlyCallAndRetTouchTheStack : Prop :=
  ∀ s t : State, step s = .next t →
    ((∃ k : Fin 16, t.stack[k.val] ≠ s.stack[k.val]) →
      ∃ nnn, decodeWord s.fetch = .ok (.call nnn) ∧
        ∀ k : Fin 16, k.val ≠ s.sp.val → t.stack[k.val] = s.stack[k.val]) ∧
    (t.sp ≠ s.sp →
      (∃ nnn, decodeWord s.fetch = .ok (.call nnn) ∧ t.sp.val = s.sp.val + 1) ∨
      (decodeWord s.fetch = .ok .ret ∧ t.sp.val = s.sp.val - 1))

/-- R25, R26, R133: only 00E0 and DXYN write the framebuffer or drawFlag, each of them sets drawFlag, even
where no pixel changes, and no step clears it. -/
def Obligations.OnlyDisplayInstructionsTouchTheScreen : Prop :=
  ∀ s t : State, step s = .next t →
    ((∃ k, t.fbByte k ≠ s.fbByte k) ∨ t.drawFlag ≠ s.drawFlag →
      decodeWord s.fetch = .ok .cls ∨ ∃ x y n, decodeWord s.fetch = .ok (.drw x y n)) ∧
    ((decodeWord s.fetch = .ok .cls ∨ ∃ x y n, decodeWord s.fetch = .ok (.drw x y n)) → t.drawFlag = true) ∧
    (s.drawFlag = true → t.drawFlag = true)

/-- R16: VF changes only by the instructions of R16's table, or as an explicit destination. -/
def Obligations.OnlyTheseWriteVf : Prop :=
  ∀ s t : State, step s = .next t → t.getV vf ≠ s.getV vf →
    ∃ i, decodeWord s.fetch = .ok i ∧
      ((∃ x y, i = .addReg x y ∨ i = .subReg x y ∨ i = .shrReg x y ∨ i = .subnReg x y ∨ i = .shlReg x y) ∨
       (∃ x y n, i = .drw x y n) ∨ (∃ x, i = .addI x) ∨
       (∃ nn, i = .ldImm vf nn ∨ i = .addImm vf nn ∨ i = .rnd vf nn) ∨
       (∃ y, i = .ldReg vf y ∨ i = .orReg vf y ∨ i = .andReg vf y ∨ i = .xorReg vf y) ∨
       i = .ldVDt vf ∨ i = .ldVKey vf ∨ i = .loadRegs vf)

/-- R8, R24, R28, R118: no step writes the key table, the parameters or the seed. -/
def Obligations.NoStepWritesKeysParametersOrSeed : Prop :=
  ∀ s t : State, step s = .next t → t.key = s.key ∧ t.cfg = s.cfg ∧ t.seed = s.seed

/-- R120, R125: a step raises at most one record, exactly in the three cases, with PC and the fetched word. -/
def Obligations.AStepRaisesAtMostOneRecord : Prop :=
  ∀ s t : State, step s = .next t →
    t.out.diag.length ≤ 1 ∧
    ∀ d, d ∈ t.out.diag ↔
      (d = .illegalInstruction s.pc s.fetch ∧ ∃ e, decodeWord s.fetch = .error e) ∨
      (d = .stackOverflow s.pc s.fetch ∧ s.sp.val = 16 ∧ ∃ nnn, decodeWord s.fetch = .ok (.call nnn)) ∨
      (d = .stackUnderflow s.pc s.fetch ∧ s.sp.val = 0 ∧ decodeWord s.fetch = .ok .ret)

/-- R13, R23, R133: the outputs of the step before, ST and drawFlag influence nothing a step does but
themselves and the sound-stop event. -/
def Obligations.OutputsSoundTimerAndDrawFlagAreNotRead : Prop :=
  ∀ (s t : State) (flag : Bool) (v : Byte) (o : Outputs), step s = .next t →
    ∃ u, step { s with drawFlag := flag, st := v, out := o } = .next u ∧
      u = { t with drawFlag := u.drawFlag, st := u.st, out := { t.out with soundStop := u.out.soundStop } }

/-- R144: in an idle loop, n + 1 steps change the timers and the outputs only, and the sound-stop event comes
in exactly the step that takes ST to 0. -/
def Obligations.AnIdleLoopOnlyCountsTimers : Prop :=
  ∀ (n : Nat) (s : State), s.Idle →
    ∃ t, runSteps (n + 1) s = .next t ∧
      t = { s with dt := t.dt, st := t.st, out := t.out } ∧
      t.dt.toNat = s.dt.toNat - (n + 1) ∧ t.st.toNat = s.st.toNat - (n + 1) ∧
      t.out.diag = [] ∧ (t.out.soundStop = true ↔ s.st.toNat = n + 1)

/-! ## Load -/

/-- R139: a load of up to 0xE00 bytes copies the image to 0x200 and up and changes nothing else. That it leaves
no record and no sound-stop event in the outputs is the model's storing and clearing of them (log entry 2). -/
def Obligations.LoadCopiesTheImage : Prop :=
  ∀ (image : List Byte) (s : State), image.length ≤ 0xE00 →
    (∀ k, (h : k < image.length) → (s.hostLoad image).byteAt (0x200 + k) = image[k]) ∧
    (∀ j, j < 0x200 ∨ 0x200 + image.length ≤ j → (s.hostLoad image).byteAt j = s.byteAt j) ∧
    (s.hostLoad image).out = { diag := [], soundStop := false, loadResult := some .success } ∧
    s.hostLoad image = { s with mem := (s.hostLoad image).mem, out := (s.hostLoad image).out }

/-- R124, R140: a longer image raises LoadTooLarge and leaves every piece of state as it was. That it clears the
outputs of the transaction before is the model's storing of them (log entry 2). -/
def Obligations.LoadTooLargeChangesNothing : Prop :=
  ∀ (image : List Byte) (s : State), image.length > 0xE00 →
    s.hostLoad image = { s with
      out := { diag := [.loadTooLarge image.length], soundStop := false, loadResult := some .loadTooLarge } }

/-- R141: after reset and a load that succeeds, the first fetch reads the image's first two bytes at 0x200,
with the stack empty, every register and timer 0, the screen clear, the font in place and every byte outside
the font and the image 0. -/
def Obligations.BootStartsAtTheImage : Prop :=
  ∀ (s : State) (seed : Int) (a b : Byte) (rest : List Byte), (a :: b :: rest).length ≤ 0xE00 →
    ∃ t, runHost [.reset seed, .load (a :: b :: rest)] s = .next t ∧ t.fetch = a ++ b ∧ t.pc = 0x200 ∧
      t.sp = 0 ∧ (∀ x, t.getV x = 0) ∧ t.regI = 0 ∧ t.dt = 0 ∧ t.st = 0 ∧ (∀ k, t.fbByte k = 0) ∧
      (∀ j : Fin 80, t.byteAt (0x050 + j.val) = s.cfg.font[j.val]) ∧
      (∀ k, (k < 0x050 ∨ 0x0A0 ≤ k ∧ k < 0x200 ∨ 0x200 + (a :: b :: rest).length ≤ k) → t.byteAt k = 0)

/-! ## Host inputs -/

/-- R24, R35, R37: a host write of key k sets that entry of the key table and nothing else, and clearDrawFlag
clears drawFlag and nothing else. That both leave the stored outputs of the last transaction in place is
deduced (log entry 2). -/
def Obligations.HostInputsWriteOnlyTheirField : Prop :=
  ∀ (s : State) (k : Key) (down : Bool),
    (∃ t, hostAct (.setKey k down) s = .next t ∧ t.key[k.val] = down ∧
      (∀ j : Key, j ≠ k → t.key[j.val] = s.key[j.val]) ∧ t = { s with key := t.key }) ∧
    (∃ t, hostAct .clearDrawFlag s = .next t ∧ t.drawFlag = false ∧ t = { s with drawFlag := t.drawFlag })
end

