-- ==== Sys2Proof/Laws/Memory.lean ====
section
/-! SUPPORT. Byte stores: a read after a write, that every operation keeps the canonical form, and that
canonical stores with equal reads are equal. -/

namespace Sys2Proof.Machine

variable (d : Nat → Byte)

@[simp] theorem Memory.read_nil (a : Nat) : Memory.read d [] a = d a := rfl

theorem Memory.read_cons (b : Nat) (w : Byte) (m : Memory) (a : Nat) :
    Memory.read d ((b, w) :: m) a = if a = b then w else Memory.read d m a := rfl

theorem Memory.read_dropAt_same (m : Memory) (a : Nat) : Memory.read d (m.dropAt a) a = d a := by
  induction m with
  | nil => rfl
  | cons p m ih =>
    obtain ⟨b, w⟩ := p
    by_cases h : b = a
    · simpa [Memory.dropAt, h] using ih
    · have h' : ¬ a = b := fun e => h e.symm
      simpa [Memory.dropAt, h, h', Memory.read_cons] using ih

theorem Memory.read_dropAt_ne (m : Memory) {a b : Nat} (hab : b ≠ a) :
    Memory.read d (m.dropAt a) b = Memory.read d m b := by
  induction m with
  | nil => rfl
  | cons p m ih =>
    obtain ⟨c, w⟩ := p
    by_cases h : c = a
    · subst h
      simpa [Memory.dropAt, Memory.read_cons, hab] using ih
    · simp only [Memory.dropAt] at ih
      simp [Memory.dropAt, h, Memory.read_cons, ih]

theorem Memory.read_insertAt_ne (m : Memory) {a b : Nat} (w : Byte) (hab : b ≠ a) :
    Memory.read d (m.insertAt a w) b = Memory.read d m b := by
  induction m with
  | nil => simp [Memory.insertAt, Memory.read_cons, hab]
  | cons p m ih =>
    obtain ⟨c, u⟩ := p
    by_cases h : a < c
    · simp [Memory.insertAt, h, Memory.read_cons, hab]
    · simp [Memory.insertAt, h, Memory.read_cons, ih]

theorem Memory.read_insertAt_same (m : Memory) (a : Nat) (w : Byte) (h : ∀ p ∈ m, p.1 ≠ a) :
    Memory.read d (m.insertAt a w) a = w := by
  induction m with
  | nil => simp [Memory.insertAt, Memory.read_cons]
  | cons p m ih =>
    obtain ⟨c, u⟩ := p
    have hc : ¬ a = c := fun e => h _ (List.mem_cons_self ..) e.symm
    by_cases hlt : a < c
    · simp [Memory.insertAt, hlt, Memory.read_cons]
    · simp [Memory.insertAt, hlt, Memory.read_cons, hc, ih fun p hp => h p (List.mem_cons_of_mem _ hp)]

theorem Memory.mem_dropAt {m : Memory} {a : Nat} {p : Host.Cell} :
    p ∈ m.dropAt a ↔ p ∈ m ∧ p.1 ≠ a := by
  simp [Memory.dropAt]

theorem Memory.mem_insertAt {m : Memory} {a : Nat} {w : Byte} {p : Host.Cell} :
    p ∈ m.insertAt a w ↔ p = (a, w) ∨ p ∈ m := by
  induction m with
  | nil => simp [Memory.insertAt]
  | cons q m ih =>
    obtain ⟨c, u⟩ := q
    by_cases h : a < c
    · simp [Memory.insertAt, h]
    · simp [Memory.insertAt, h, ih, or_left_comm]

/-- A read after a write to the same address gives the byte written. -/
theorem Memory.read_write_same (m : Memory) (a : Nat) (w : Byte) :
    Memory.read d (Memory.write d m a w) a = w := by
  unfold Memory.write
  split
  · next h => rw [Memory.read_dropAt_same, h]
  · exact Memory.read_insertAt_same d _ a w fun p hp => (Memory.mem_dropAt.1 hp).2

/-- A write leaves every other address alone. -/
theorem Memory.read_write_ne (m : Memory) {a b : Nat} (w : Byte) (h : b ≠ a) :
    Memory.read d (Memory.write d m a w) b = Memory.read d m b := by
  unfold Memory.write
  split
  · exact Memory.read_dropAt_ne d m h
  · rw [Memory.read_insertAt_ne d _ w h, Memory.read_dropAt_ne d m h]

theorem Memory.read_write (m : Memory) (a b : Nat) (w : Byte) :
    Memory.read d (Memory.write d m a w) b = if b = a then w else Memory.read d m b := by
  split
  · next h => rw [h, Memory.read_write_same]
  · next h => exact Memory.read_write_ne d m w h

/-- What a written store lists was listed before or is the byte written. -/
theorem Memory.mem_write {m : Memory} {a : Nat} {w : Byte} {p : Host.Cell}
    (h : p ∈ Memory.write d m a w) : p = (a, w) ∧ w ≠ d a ∨ p ∈ m := by
  unfold Memory.write at h
  split at h
  · exact .inr (Memory.mem_dropAt.1 h).1
  · next hw =>
    rcases Memory.mem_insertAt.1 h with h | h
    · exact .inl ⟨h, hw⟩
    · exact .inr (Memory.mem_dropAt.1 h).1

theorem Memory.sorted_insertAt {m : Memory} (a : Nat) (w : Byte) (hs : m.Pairwise (fun p q => p.1 < q.1))
    (ha : ∀ p ∈ m, p.1 ≠ a) : (m.insertAt a w).Pairwise (fun p q => p.1 < q.1) := by
  induction m with
  | nil => simp [Memory.insertAt]
  | cons q m ih =>
    obtain ⟨c, u⟩ := q
    rw [List.pairwise_cons] at hs
    have hc : c ≠ a := ha _ (List.mem_cons_self ..)
    by_cases h : a < c
    · simp only [Memory.insertAt, h, if_true, List.pairwise_cons, List.mem_cons]
      refine ⟨?_, hs⟩
      rintro p (rfl | hp)
      · exact h
      · exact Nat.lt_trans h (hs.1 p hp)
    · simp only [Memory.insertAt, h, if_false, List.pairwise_cons]
      refine ⟨fun p hp => ?_, ih hs.2 fun p hp => ha p (List.mem_cons_of_mem _ hp)⟩
      rcases Memory.mem_insertAt.1 hp with rfl | hp
      · show c < a
        omega
      · exact hs.1 p hp

theorem Memory.wf_nil (size : Nat) : Memory.wf d size [] := by simp [Memory.wf]

/-- A write within the store keeps the canonical form. -/
theorem Memory.wf_write {size : Nat} {m : Memory} (h : Memory.wf d size m) {a : Nat} (ha : a < size)
    (w : Byte) : Memory.wf d size (Memory.write d m a w) := by
  have hdrop : (m.dropAt a).Pairwise (fun p q => p.1 < q.1) := h.1.filter _
  refine ⟨?_, fun p hp => ?_⟩
  · unfold Memory.write
    split
    · exact hdrop
    · exact Memory.sorted_insertAt a w hdrop fun p hp => (Memory.mem_dropAt.1 hp).2
  · rcases Memory.mem_write d hp with ⟨rfl, hw⟩ | hp
    · exact ⟨ha, hw⟩
    · exact h.2 p hp

/-- In a canonical store, a listed byte is what its address reads as. -/
theorem Memory.read_of_mem {m : Memory} (h : m.Pairwise (fun p q => p.1 < q.1)) {p : Host.Cell}
    (hp : p ∈ m) : Memory.read d m p.1 = p.2 := by
  induction m with
  | nil => cases hp
  | cons q m ih =>
    obtain ⟨c, u⟩ := q
    rw [List.pairwise_cons] at h
    rcases List.mem_cons.1 hp with rfl | hp
    · simp [Memory.read_cons]
    · have := h.1 p hp
      have hne : p.1 ≠ c := Nat.ne_of_gt this
      simp [Memory.read_cons, hne, ih h.2 hp]

/-- An address no entry lists reads as `d` says. -/
theorem Memory.read_of_not_listed {m : Memory} {a : Nat} (h : ∀ p ∈ m, p.1 ≠ a) :
    Memory.read d m a = d a := by
  induction m with
  | nil => rfl
  | cons q m ih =>
    obtain ⟨c, u⟩ := q
    have hc : ¬ a = c := fun e => h _ (List.mem_cons_self ..) e.symm
    simp [Memory.read_cons, hc, ih fun p hp => h p (List.mem_cons_of_mem _ hp)]

/-- A byte a store reads as is listed there or is what an unlisted address reads as. -/
theorem Memory.read_cases (m : Memory) (a : Nat) :
    (a, Memory.read d m a) ∈ m ∨ Memory.read d m a = d a := by
  induction m with
  | nil => exact .inr rfl
  | cons q m ih =>
    obtain ⟨c, u⟩ := q
    by_cases h : a = c
    · subst h
      simp [Memory.read_cons]
    · simp only [Memory.read_cons, h, if_false, List.mem_cons]
      exact ih.imp_left .inr

/-! ## The core memory and the framebuffer -/

/-- Every reduced address lies in the memory (R40). -/
theorem ea_lt (c : Config) (a : Nat) : ea c a < memorySize := by
  unfold ea memorySize
  split <;> omega

/-- Below 4096 both policies leave the address as it is (R40). -/
theorem ea_of_lt (c : Config) {a : Nat} (h : a < memorySize) : ea c a = a := by
  unfold ea
  unfold memorySize at *
  split <;> omega

theorem State.byteAt_writeMem (s : State) (a k : Nat) (b : Byte) :
    (s.writeMem a b).byteAt k = if k = ea s.cfg a then b else s.byteAt k :=
  Memory.read_write _ _ _ _ _

theorem State.readMem_writeMem (s : State) (a k : Nat) (b : Byte) :
    (s.writeMem a b).readMem k = if ea s.cfg k = ea s.cfg a then b else s.readMem k :=
  Memory.read_write _ _ _ _ _

theorem State.fbByte_setFb (s : State) (k j : Nat) (b : Byte) :
    (s.setFb k b).fbByte j = if j = k then b else s.fbByte j :=
  Memory.read_write _ _ _ _ _

@[simp] theorem State.fbByte_clearFb (s : State) (j : Nat) : s.clearFb.fbByte j = 0 := rfl

/-- Within the screen the pixel index is one to one (R25). -/
theorem pixelIndex_inj {r r' c c' : Nat} (hc : c < screenColumns) (hc' : c' < screenColumns) :
    pixelIndex r c = pixelIndex r' c' ↔ r = r' ∧ c = c' := by
  unfold pixelIndex
  unfold screenColumns at *
  omega

theorem pixelIndex_lt {r c : Nat} (hr : r < screenRows) (hc : c < screenColumns) :
    pixelIndex r c < screenSize := by
  unfold pixelIndex screenSize
  unfold screenRows screenColumns at *
  omega

end Sys2Proof.Machine
end

