-- ==== Sys2Proof/Laws/State.lean ====
section
/-! SUPPORT. What each field, and each read of the state, is after each update: one lemma per field per
update, true by rfl, so that no proof unfolds a record update. -/

namespace Sys2Proof.Machine

/-! ### setV -/

section
variable (s : State) (x : Reg) (b : Byte)

@[simp] theorem State.setV_v : (s.setV x b).v = s.v.set x.val b := rfl
@[simp] theorem State.setV_regI : (s.setV x b).regI = s.regI := rfl
@[simp] theorem State.setV_pc : (s.setV x b).pc = s.pc := rfl
@[simp] theorem State.setV_sp : (s.setV x b).sp = s.sp := rfl
@[simp] theorem State.setV_stack : (s.setV x b).stack = s.stack := rfl
@[simp] theorem State.setV_dt : (s.setV x b).dt = s.dt := rfl
@[simp] theorem State.setV_st : (s.setV x b).st = s.st := rfl
@[simp] theorem State.setV_key : (s.setV x b).key = s.key := rfl
@[simp] theorem State.setV_fb : (s.setV x b).fb = s.fb := rfl
@[simp] theorem State.setV_drawFlag : (s.setV x b).drawFlag = s.drawFlag := rfl
@[simp] theorem State.setV_mem : (s.setV x b).mem = s.mem := rfl
@[simp] theorem State.setV_seed : (s.setV x b).seed = s.seed := rfl
@[simp] theorem State.setV_randCount : (s.setV x b).randCount = s.randCount := rfl
@[simp] theorem State.setV_cfg : (s.setV x b).cfg = s.cfg := rfl
@[simp] theorem State.setV_draws : (s.setV x b).draws = s.draws := rfl
@[simp] theorem State.setV_out : (s.setV x b).out = s.out := rfl
@[simp] theorem State.setV_byteAt (j : Nat) : (s.setV x b).byteAt j = s.byteAt j := rfl
@[simp] theorem State.setV_readMem (j : Nat) : (s.setV x b).readMem j = s.readMem j := rfl
@[simp] theorem State.setV_fbByte (j : Nat) : (s.setV x b).fbByte j = s.fbByte j := rfl
@[simp] theorem State.setV_pixel (r c : Nat) : (s.setV x b).pixel r c = s.pixel r c := rfl
@[simp] theorem State.setV_pressedKeys : (s.setV x b).pressedKeys = s.pressedKeys := rfl
@[simp] theorem State.setV_fetch : (s.setV x b).fetch = s.fetch := rfl

end

/-! ### setI -/

section
variable (s : State) (w : Word)

@[simp] theorem State.setI_v : (s.setI w).v = s.v := rfl
@[simp] theorem State.setI_regI : (s.setI w).regI = w := rfl
@[simp] theorem State.setI_pc : (s.setI w).pc = s.pc := rfl
@[simp] theorem State.setI_sp : (s.setI w).sp = s.sp := rfl
@[simp] theorem State.setI_stack : (s.setI w).stack = s.stack := rfl
@[simp] theorem State.setI_dt : (s.setI w).dt = s.dt := rfl
@[simp] theorem State.setI_st : (s.setI w).st = s.st := rfl
@[simp] theorem State.setI_key : (s.setI w).key = s.key := rfl
@[simp] theorem State.setI_fb : (s.setI w).fb = s.fb := rfl
@[simp] theorem State.setI_drawFlag : (s.setI w).drawFlag = s.drawFlag := rfl
@[simp] theorem State.setI_mem : (s.setI w).mem = s.mem := rfl
@[simp] theorem State.setI_seed : (s.setI w).seed = s.seed := rfl
@[simp] theorem State.setI_randCount : (s.setI w).randCount = s.randCount := rfl
@[simp] theorem State.setI_cfg : (s.setI w).cfg = s.cfg := rfl
@[simp] theorem State.setI_draws : (s.setI w).draws = s.draws := rfl
@[simp] theorem State.setI_out : (s.setI w).out = s.out := rfl
@[simp] theorem State.setI_getV (r : Reg) : (s.setI w).getV r = s.getV r := rfl
@[simp] theorem State.setI_byteAt (j : Nat) : (s.setI w).byteAt j = s.byteAt j := rfl
@[simp] theorem State.setI_readMem (j : Nat) : (s.setI w).readMem j = s.readMem j := rfl
@[simp] theorem State.setI_fbByte (j : Nat) : (s.setI w).fbByte j = s.fbByte j := rfl
@[simp] theorem State.setI_pixel (r c : Nat) : (s.setI w).pixel r c = s.pixel r c := rfl
@[simp] theorem State.setI_pressedKeys : (s.setI w).pressedKeys = s.pressedKeys := rfl
@[simp] theorem State.setI_fetch : (s.setI w).fetch = s.fetch := rfl

end

/-! ### writeMem -/

section
variable (s : State) (a : Nat) (b : Byte)

@[simp] theorem State.writeMem_v : (s.writeMem a b).v = s.v := rfl
@[simp] theorem State.writeMem_regI : (s.writeMem a b).regI = s.regI := rfl
@[simp] theorem State.writeMem_pc : (s.writeMem a b).pc = s.pc := rfl
@[simp] theorem State.writeMem_sp : (s.writeMem a b).sp = s.sp := rfl
@[simp] theorem State.writeMem_stack : (s.writeMem a b).stack = s.stack := rfl
@[simp] theorem State.writeMem_dt : (s.writeMem a b).dt = s.dt := rfl
@[simp] theorem State.writeMem_st : (s.writeMem a b).st = s.st := rfl
@[simp] theorem State.writeMem_key : (s.writeMem a b).key = s.key := rfl
@[simp] theorem State.writeMem_fb : (s.writeMem a b).fb = s.fb := rfl
@[simp] theorem State.writeMem_drawFlag : (s.writeMem a b).drawFlag = s.drawFlag := rfl
@[simp] theorem State.writeMem_mem : (s.writeMem a b).mem = Memory.write (initialByte s.cfg) s.mem (ea s.cfg a) b := rfl
@[simp] theorem State.writeMem_seed : (s.writeMem a b).seed = s.seed := rfl
@[simp] theorem State.writeMem_randCount : (s.writeMem a b).randCount = s.randCount := rfl
@[simp] theorem State.writeMem_cfg : (s.writeMem a b).cfg = s.cfg := rfl
@[simp] theorem State.writeMem_draws : (s.writeMem a b).draws = s.draws := rfl
@[simp] theorem State.writeMem_out : (s.writeMem a b).out = s.out := rfl
@[simp] theorem State.writeMem_getV (r : Reg) : (s.writeMem a b).getV r = s.getV r := rfl
@[simp] theorem State.writeMem_fbByte (j : Nat) : (s.writeMem a b).fbByte j = s.fbByte j := rfl
@[simp] theorem State.writeMem_pixel (r c : Nat) : (s.writeMem a b).pixel r c = s.pixel r c := rfl
@[simp] theorem State.writeMem_pressedKeys : (s.writeMem a b).pressedKeys = s.pressedKeys := rfl

end

/-! ### setFb -/

section
variable (s : State) (k : Nat) (b : Byte)

@[simp] theorem State.setFb_v : (s.setFb k b).v = s.v := rfl
@[simp] theorem State.setFb_regI : (s.setFb k b).regI = s.regI := rfl
@[simp] theorem State.setFb_pc : (s.setFb k b).pc = s.pc := rfl
@[simp] theorem State.setFb_sp : (s.setFb k b).sp = s.sp := rfl
@[simp] theorem State.setFb_stack : (s.setFb k b).stack = s.stack := rfl
@[simp] theorem State.setFb_dt : (s.setFb k b).dt = s.dt := rfl
@[simp] theorem State.setFb_st : (s.setFb k b).st = s.st := rfl
@[simp] theorem State.setFb_key : (s.setFb k b).key = s.key := rfl
@[simp] theorem State.setFb_fb : (s.setFb k b).fb = Memory.write darkPixel s.fb k b := rfl
@[simp] theorem State.setFb_drawFlag : (s.setFb k b).drawFlag = s.drawFlag := rfl
@[simp] theorem State.setFb_mem : (s.setFb k b).mem = s.mem := rfl
@[simp] theorem State.setFb_seed : (s.setFb k b).seed = s.seed := rfl
@[simp] theorem State.setFb_randCount : (s.setFb k b).randCount = s.randCount := rfl
@[simp] theorem State.setFb_cfg : (s.setFb k b).cfg = s.cfg := rfl
@[simp] theorem State.setFb_draws : (s.setFb k b).draws = s.draws := rfl
@[simp] theorem State.setFb_out : (s.setFb k b).out = s.out := rfl
@[simp] theorem State.setFb_getV (r : Reg) : (s.setFb k b).getV r = s.getV r := rfl
@[simp] theorem State.setFb_byteAt (j : Nat) : (s.setFb k b).byteAt j = s.byteAt j := rfl
@[simp] theorem State.setFb_readMem (j : Nat) : (s.setFb k b).readMem j = s.readMem j := rfl
@[simp] theorem State.setFb_pressedKeys : (s.setFb k b).pressedKeys = s.pressedKeys := rfl
@[simp] theorem State.setFb_fetch : (s.setFb k b).fetch = s.fetch := rfl

end

/-! ### clearFb -/

section
variable (s : State)

@[simp] theorem State.clearFb_v : s.clearFb.v = s.v := rfl
@[simp] theorem State.clearFb_regI : s.clearFb.regI = s.regI := rfl
@[simp] theorem State.clearFb_pc : s.clearFb.pc = s.pc := rfl
@[simp] theorem State.clearFb_sp : s.clearFb.sp = s.sp := rfl
@[simp] theorem State.clearFb_stack : s.clearFb.stack = s.stack := rfl
@[simp] theorem State.clearFb_dt : s.clearFb.dt = s.dt := rfl
@[simp] theorem State.clearFb_st : s.clearFb.st = s.st := rfl
@[simp] theorem State.clearFb_key : s.clearFb.key = s.key := rfl
@[simp] theorem State.clearFb_fb : s.clearFb.fb = [] := rfl
@[simp] theorem State.clearFb_drawFlag : s.clearFb.drawFlag = s.drawFlag := rfl
@[simp] theorem State.clearFb_mem : s.clearFb.mem = s.mem := rfl
@[simp] theorem State.clearFb_seed : s.clearFb.seed = s.seed := rfl
@[simp] theorem State.clearFb_randCount : s.clearFb.randCount = s.randCount := rfl
@[simp] theorem State.clearFb_cfg : s.clearFb.cfg = s.cfg := rfl
@[simp] theorem State.clearFb_draws : s.clearFb.draws = s.draws := rfl
@[simp] theorem State.clearFb_out : s.clearFb.out = s.out := rfl
@[simp] theorem State.clearFb_getV (r : Reg) : s.clearFb.getV r = s.getV r := rfl
@[simp] theorem State.clearFb_byteAt (j : Nat) : s.clearFb.byteAt j = s.byteAt j := rfl
@[simp] theorem State.clearFb_readMem (j : Nat) : s.clearFb.readMem j = s.readMem j := rfl
@[simp] theorem State.clearFb_pressedKeys : s.clearFb.pressedKeys = s.pressedKeys := rfl
@[simp] theorem State.clearFb_fetch : s.clearFb.fetch = s.fetch := rfl

end

/-! ### setDrawFlag -/

section
variable (s : State) (b : Bool)

@[simp] theorem State.setDrawFlag_v : (s.setDrawFlag b).v = s.v := rfl
@[simp] theorem State.setDrawFlag_regI : (s.setDrawFlag b).regI = s.regI := rfl
@[simp] theorem State.setDrawFlag_pc : (s.setDrawFlag b).pc = s.pc := rfl
@[simp] theorem State.setDrawFlag_sp : (s.setDrawFlag b).sp = s.sp := rfl
@[simp] theorem State.setDrawFlag_stack : (s.setDrawFlag b).stack = s.stack := rfl
@[simp] theorem State.setDrawFlag_dt : (s.setDrawFlag b).dt = s.dt := rfl
@[simp] theorem State.setDrawFlag_st : (s.setDrawFlag b).st = s.st := rfl
@[simp] theorem State.setDrawFlag_key : (s.setDrawFlag b).key = s.key := rfl
@[simp] theorem State.setDrawFlag_fb : (s.setDrawFlag b).fb = s.fb := rfl
@[simp] theorem State.setDrawFlag_drawFlag : (s.setDrawFlag b).drawFlag = b := rfl
@[simp] theorem State.setDrawFlag_mem : (s.setDrawFlag b).mem = s.mem := rfl
@[simp] theorem State.setDrawFlag_seed : (s.setDrawFlag b).seed = s.seed := rfl
@[simp] theorem State.setDrawFlag_randCount : (s.setDrawFlag b).randCount = s.randCount := rfl
@[simp] theorem State.setDrawFlag_cfg : (s.setDrawFlag b).cfg = s.cfg := rfl
@[simp] theorem State.setDrawFlag_draws : (s.setDrawFlag b).draws = s.draws := rfl
@[simp] theorem State.setDrawFlag_out : (s.setDrawFlag b).out = s.out := rfl
@[simp] theorem State.setDrawFlag_getV (r : Reg) : (s.setDrawFlag b).getV r = s.getV r := rfl
@[simp] theorem State.setDrawFlag_byteAt (j : Nat) : (s.setDrawFlag b).byteAt j = s.byteAt j := rfl
@[simp] theorem State.setDrawFlag_readMem (j : Nat) : (s.setDrawFlag b).readMem j = s.readMem j := rfl
@[simp] theorem State.setDrawFlag_fbByte (j : Nat) : (s.setDrawFlag b).fbByte j = s.fbByte j := rfl
@[simp] theorem State.setDrawFlag_pixel (r c : Nat) : (s.setDrawFlag b).pixel r c = s.pixel r c := rfl
@[simp] theorem State.setDrawFlag_pressedKeys : (s.setDrawFlag b).pressedKeys = s.pressedKeys := rfl
@[simp] theorem State.setDrawFlag_fetch : (s.setDrawFlag b).fetch = s.fetch := rfl

end

/-! ### setPc -/

section
variable (s : State) (w : Word)

@[simp] theorem State.setPc_v : (s.setPc w).v = s.v := rfl
@[simp] theorem State.setPc_regI : (s.setPc w).regI = s.regI := rfl
@[simp] theorem State.setPc_pc : (s.setPc w).pc = w := rfl
@[simp] theorem State.setPc_sp : (s.setPc w).sp = s.sp := rfl
@[simp] theorem State.setPc_stack : (s.setPc w).stack = s.stack := rfl
@[simp] theorem State.setPc_dt : (s.setPc w).dt = s.dt := rfl
@[simp] theorem State.setPc_st : (s.setPc w).st = s.st := rfl
@[simp] theorem State.setPc_key : (s.setPc w).key = s.key := rfl
@[simp] theorem State.setPc_fb : (s.setPc w).fb = s.fb := rfl
@[simp] theorem State.setPc_drawFlag : (s.setPc w).drawFlag = s.drawFlag := rfl
@[simp] theorem State.setPc_mem : (s.setPc w).mem = s.mem := rfl
@[simp] theorem State.setPc_seed : (s.setPc w).seed = s.seed := rfl
@[simp] theorem State.setPc_randCount : (s.setPc w).randCount = s.randCount := rfl
@[simp] theorem State.setPc_cfg : (s.setPc w).cfg = s.cfg := rfl
@[simp] theorem State.setPc_draws : (s.setPc w).draws = s.draws := rfl
@[simp] theorem State.setPc_out : (s.setPc w).out = s.out := rfl
@[simp] theorem State.setPc_getV (r : Reg) : (s.setPc w).getV r = s.getV r := rfl
@[simp] theorem State.setPc_byteAt (j : Nat) : (s.setPc w).byteAt j = s.byteAt j := rfl
@[simp] theorem State.setPc_readMem (j : Nat) : (s.setPc w).readMem j = s.readMem j := rfl
@[simp] theorem State.setPc_fbByte (j : Nat) : (s.setPc w).fbByte j = s.fbByte j := rfl
@[simp] theorem State.setPc_pixel (r c : Nat) : (s.setPc w).pixel r c = s.pixel r c := rfl
@[simp] theorem State.setPc_pressedKeys : (s.setPc w).pressedKeys = s.pressedKeys := rfl

end

/-! ### advance -/

section
variable (s : State)

@[simp] theorem State.advance_v : s.advance.v = s.v := rfl
@[simp] theorem State.advance_regI : s.advance.regI = s.regI := rfl
@[simp] theorem State.advance_pc : s.advance.pc = s.pc + 2 := rfl
@[simp] theorem State.advance_sp : s.advance.sp = s.sp := rfl
@[simp] theorem State.advance_stack : s.advance.stack = s.stack := rfl
@[simp] theorem State.advance_dt : s.advance.dt = s.dt := rfl
@[simp] theorem State.advance_st : s.advance.st = s.st := rfl
@[simp] theorem State.advance_key : s.advance.key = s.key := rfl
@[simp] theorem State.advance_fb : s.advance.fb = s.fb := rfl
@[simp] theorem State.advance_drawFlag : s.advance.drawFlag = s.drawFlag := rfl
@[simp] theorem State.advance_mem : s.advance.mem = s.mem := rfl
@[simp] theorem State.advance_seed : s.advance.seed = s.seed := rfl
@[simp] theorem State.advance_randCount : s.advance.randCount = s.randCount := rfl
@[simp] theorem State.advance_cfg : s.advance.cfg = s.cfg := rfl
@[simp] theorem State.advance_draws : s.advance.draws = s.draws := rfl
@[simp] theorem State.advance_out : s.advance.out = s.out := rfl
@[simp] theorem State.advance_getV (r : Reg) : s.advance.getV r = s.getV r := rfl
@[simp] theorem State.advance_byteAt (j : Nat) : s.advance.byteAt j = s.byteAt j := rfl
@[simp] theorem State.advance_readMem (j : Nat) : s.advance.readMem j = s.readMem j := rfl
@[simp] theorem State.advance_fbByte (j : Nat) : s.advance.fbByte j = s.fbByte j := rfl
@[simp] theorem State.advance_pixel (r c : Nat) : s.advance.pixel r c = s.pixel r c := rfl
@[simp] theorem State.advance_pressedKeys : s.advance.pressedKeys = s.pressedKeys := rfl

end

/-! ### skipIf -/

section
variable (s : State) (c : Bool)

@[simp] theorem State.skipIf_v : (s.skipIf c).v = s.v := rfl
@[simp] theorem State.skipIf_regI : (s.skipIf c).regI = s.regI := rfl
@[simp] theorem State.skipIf_pc : (s.skipIf c).pc = s.pc + if c then 4 else 2 := rfl
@[simp] theorem State.skipIf_sp : (s.skipIf c).sp = s.sp := rfl
@[simp] theorem State.skipIf_stack : (s.skipIf c).stack = s.stack := rfl
@[simp] theorem State.skipIf_dt : (s.skipIf c).dt = s.dt := rfl
@[simp] theorem State.skipIf_st : (s.skipIf c).st = s.st := rfl
@[simp] theorem State.skipIf_key : (s.skipIf c).key = s.key := rfl
@[simp] theorem State.skipIf_fb : (s.skipIf c).fb = s.fb := rfl
@[simp] theorem State.skipIf_drawFlag : (s.skipIf c).drawFlag = s.drawFlag := rfl
@[simp] theorem State.skipIf_mem : (s.skipIf c).mem = s.mem := rfl
@[simp] theorem State.skipIf_seed : (s.skipIf c).seed = s.seed := rfl
@[simp] theorem State.skipIf_randCount : (s.skipIf c).randCount = s.randCount := rfl
@[simp] theorem State.skipIf_cfg : (s.skipIf c).cfg = s.cfg := rfl
@[simp] theorem State.skipIf_draws : (s.skipIf c).draws = s.draws := rfl
@[simp] theorem State.skipIf_out : (s.skipIf c).out = s.out := rfl
@[simp] theorem State.skipIf_getV (r : Reg) : (s.skipIf c).getV r = s.getV r := rfl
@[simp] theorem State.skipIf_byteAt (j : Nat) : (s.skipIf c).byteAt j = s.byteAt j := rfl
@[simp] theorem State.skipIf_readMem (j : Nat) : (s.skipIf c).readMem j = s.readMem j := rfl
@[simp] theorem State.skipIf_fbByte (j : Nat) : (s.skipIf c).fbByte j = s.fbByte j := rfl
@[simp] theorem State.skipIf_pixel (r c' : Nat) : (s.skipIf c).pixel r c' = s.pixel r c' := rfl
@[simp] theorem State.skipIf_pressedKeys : (s.skipIf c).pressedKeys = s.pressedKeys := rfl

end

/-! ### raise -/

section
variable (s : State) (d : Diag)

@[simp] theorem State.raise_v : (s.raise d).v = s.v := rfl
@[simp] theorem State.raise_regI : (s.raise d).regI = s.regI := rfl
@[simp] theorem State.raise_pc : (s.raise d).pc = s.pc := rfl
@[simp] theorem State.raise_sp : (s.raise d).sp = s.sp := rfl
@[simp] theorem State.raise_stack : (s.raise d).stack = s.stack := rfl
@[simp] theorem State.raise_dt : (s.raise d).dt = s.dt := rfl
@[simp] theorem State.raise_st : (s.raise d).st = s.st := rfl
@[simp] theorem State.raise_key : (s.raise d).key = s.key := rfl
@[simp] theorem State.raise_fb : (s.raise d).fb = s.fb := rfl
@[simp] theorem State.raise_drawFlag : (s.raise d).drawFlag = s.drawFlag := rfl
@[simp] theorem State.raise_mem : (s.raise d).mem = s.mem := rfl
@[simp] theorem State.raise_seed : (s.raise d).seed = s.seed := rfl
@[simp] theorem State.raise_randCount : (s.raise d).randCount = s.randCount := rfl
@[simp] theorem State.raise_cfg : (s.raise d).cfg = s.cfg := rfl
@[simp] theorem State.raise_draws : (s.raise d).draws = s.draws := rfl
@[simp] theorem State.raise_out : (s.raise d).out = { s.out with diag := s.out.diag ++ [d] } := rfl
@[simp] theorem State.raise_getV (r : Reg) : (s.raise d).getV r = s.getV r := rfl
@[simp] theorem State.raise_byteAt (j : Nat) : (s.raise d).byteAt j = s.byteAt j := rfl
@[simp] theorem State.raise_readMem (j : Nat) : (s.raise d).readMem j = s.readMem j := rfl
@[simp] theorem State.raise_fbByte (j : Nat) : (s.raise d).fbByte j = s.fbByte j := rfl
@[simp] theorem State.raise_pixel (r c : Nat) : (s.raise d).pixel r c = s.pixel r c := rfl
@[simp] theorem State.raise_pressedKeys : (s.raise d).pressedKeys = s.pressedKeys := rfl
@[simp] theorem State.raise_fetch : (s.raise d).fetch = s.fetch := rfl

end

/-! ### nextDraw -/

section
variable (s : State)

@[simp] theorem State.nextDraw_v : s.nextDraw.v = s.v := rfl
@[simp] theorem State.nextDraw_regI : s.nextDraw.regI = s.regI := rfl
@[simp] theorem State.nextDraw_pc : s.nextDraw.pc = s.pc := rfl
@[simp] theorem State.nextDraw_sp : s.nextDraw.sp = s.sp := rfl
@[simp] theorem State.nextDraw_stack : s.nextDraw.stack = s.stack := rfl
@[simp] theorem State.nextDraw_dt : s.nextDraw.dt = s.dt := rfl
@[simp] theorem State.nextDraw_st : s.nextDraw.st = s.st := rfl
@[simp] theorem State.nextDraw_key : s.nextDraw.key = s.key := rfl
@[simp] theorem State.nextDraw_fb : s.nextDraw.fb = s.fb := rfl
@[simp] theorem State.nextDraw_drawFlag : s.nextDraw.drawFlag = s.drawFlag := rfl
@[simp] theorem State.nextDraw_mem : s.nextDraw.mem = s.mem := rfl
@[simp] theorem State.nextDraw_seed : s.nextDraw.seed = s.seed := rfl
@[simp] theorem State.nextDraw_randCount : s.nextDraw.randCount = s.randCount := rfl
@[simp] theorem State.nextDraw_cfg : s.nextDraw.cfg = s.cfg := rfl
@[simp] theorem State.nextDraw_draws : s.nextDraw.draws = s.draws + 1 := rfl
@[simp] theorem State.nextDraw_out : s.nextDraw.out = s.out := rfl
@[simp] theorem State.nextDraw_getV (r : Reg) : s.nextDraw.getV r = s.getV r := rfl
@[simp] theorem State.nextDraw_byteAt (j : Nat) : s.nextDraw.byteAt j = s.byteAt j := rfl
@[simp] theorem State.nextDraw_readMem (j : Nat) : s.nextDraw.readMem j = s.readMem j := rfl
@[simp] theorem State.nextDraw_fbByte (j : Nat) : s.nextDraw.fbByte j = s.fbByte j := rfl
@[simp] theorem State.nextDraw_pixel (r c : Nat) : s.nextDraw.pixel r c = s.pixel r c := rfl
@[simp] theorem State.nextDraw_pressedKeys : s.nextDraw.pressedKeys = s.pressedKeys := rfl
@[simp] theorem State.nextDraw_fetch : s.nextDraw.fetch = s.fetch := rfl

end

/-! ### setDt -/

section
variable (s : State) (b : Byte)

@[simp] theorem State.setDt_v : (s.setDt b).v = s.v := rfl
@[simp] theorem State.setDt_regI : (s.setDt b).regI = s.regI := rfl
@[simp] theorem State.setDt_pc : (s.setDt b).pc = s.pc := rfl
@[simp] theorem State.setDt_sp : (s.setDt b).sp = s.sp := rfl
@[simp] theorem State.setDt_stack : (s.setDt b).stack = s.stack := rfl
@[simp] theorem State.setDt_dt : (s.setDt b).dt = b := rfl
@[simp] theorem State.setDt_st : (s.setDt b).st = s.st := rfl
@[simp] theorem State.setDt_key : (s.setDt b).key = s.key := rfl
@[simp] theorem State.setDt_fb : (s.setDt b).fb = s.fb := rfl
@[simp] theorem State.setDt_drawFlag : (s.setDt b).drawFlag = s.drawFlag := rfl
@[simp] theorem State.setDt_mem : (s.setDt b).mem = s.mem := rfl
@[simp] theorem State.setDt_seed : (s.setDt b).seed = s.seed := rfl
@[simp] theorem State.setDt_randCount : (s.setDt b).randCount = s.randCount := rfl
@[simp] theorem State.setDt_cfg : (s.setDt b).cfg = s.cfg := rfl
@[simp] theorem State.setDt_draws : (s.setDt b).draws = s.draws := rfl
@[simp] theorem State.setDt_out : (s.setDt b).out = s.out := rfl
@[simp] theorem State.setDt_getV (r : Reg) : (s.setDt b).getV r = s.getV r := rfl
@[simp] theorem State.setDt_byteAt (j : Nat) : (s.setDt b).byteAt j = s.byteAt j := rfl
@[simp] theorem State.setDt_readMem (j : Nat) : (s.setDt b).readMem j = s.readMem j := rfl
@[simp] theorem State.setDt_fbByte (j : Nat) : (s.setDt b).fbByte j = s.fbByte j := rfl
@[simp] theorem State.setDt_pixel (r c : Nat) : (s.setDt b).pixel r c = s.pixel r c := rfl
@[simp] theorem State.setDt_pressedKeys : (s.setDt b).pressedKeys = s.pressedKeys := rfl
@[simp] theorem State.setDt_fetch : (s.setDt b).fetch = s.fetch := rfl

end

/-! ### setSt -/

section
variable (s : State) (b : Byte)

@[simp] theorem State.setSt_v : (s.setSt b).v = s.v := rfl
@[simp] theorem State.setSt_regI : (s.setSt b).regI = s.regI := rfl
@[simp] theorem State.setSt_pc : (s.setSt b).pc = s.pc := rfl
@[simp] theorem State.setSt_sp : (s.setSt b).sp = s.sp := rfl
@[simp] theorem State.setSt_stack : (s.setSt b).stack = s.stack := rfl
@[simp] theorem State.setSt_dt : (s.setSt b).dt = s.dt := rfl
@[simp] theorem State.setSt_st : (s.setSt b).st = b := rfl
@[simp] theorem State.setSt_key : (s.setSt b).key = s.key := rfl
@[simp] theorem State.setSt_fb : (s.setSt b).fb = s.fb := rfl
@[simp] theorem State.setSt_drawFlag : (s.setSt b).drawFlag = s.drawFlag := rfl
@[simp] theorem State.setSt_mem : (s.setSt b).mem = s.mem := rfl
@[simp] theorem State.setSt_seed : (s.setSt b).seed = s.seed := rfl
@[simp] theorem State.setSt_randCount : (s.setSt b).randCount = s.randCount := rfl
@[simp] theorem State.setSt_cfg : (s.setSt b).cfg = s.cfg := rfl
@[simp] theorem State.setSt_draws : (s.setSt b).draws = s.draws := rfl
@[simp] theorem State.setSt_out : (s.setSt b).out = s.out := rfl
@[simp] theorem State.setSt_getV (r : Reg) : (s.setSt b).getV r = s.getV r := rfl
@[simp] theorem State.setSt_byteAt (j : Nat) : (s.setSt b).byteAt j = s.byteAt j := rfl
@[simp] theorem State.setSt_readMem (j : Nat) : (s.setSt b).readMem j = s.readMem j := rfl
@[simp] theorem State.setSt_fbByte (j : Nat) : (s.setSt b).fbByte j = s.fbByte j := rfl
@[simp] theorem State.setSt_pixel (r c : Nat) : (s.setSt b).pixel r c = s.pixel r c := rfl
@[simp] theorem State.setSt_pressedKeys : (s.setSt b).pressedKeys = s.pressedKeys := rfl
@[simp] theorem State.setSt_fetch : (s.setSt b).fetch = s.fetch := rfl

end

/-! ### signalSoundStop -/

section
variable (s : State)

@[simp] theorem State.signalSoundStop_v : s.signalSoundStop.v = s.v := rfl
@[simp] theorem State.signalSoundStop_regI : s.signalSoundStop.regI = s.regI := rfl
@[simp] theorem State.signalSoundStop_pc : s.signalSoundStop.pc = s.pc := rfl
@[simp] theorem State.signalSoundStop_sp : s.signalSoundStop.sp = s.sp := rfl
@[simp] theorem State.signalSoundStop_stack : s.signalSoundStop.stack = s.stack := rfl
@[simp] theorem State.signalSoundStop_dt : s.signalSoundStop.dt = s.dt := rfl
@[simp] theorem State.signalSoundStop_st : s.signalSoundStop.st = s.st := rfl
@[simp] theorem State.signalSoundStop_key : s.signalSoundStop.key = s.key := rfl
@[simp] theorem State.signalSoundStop_fb : s.signalSoundStop.fb = s.fb := rfl
@[simp] theorem State.signalSoundStop_drawFlag : s.signalSoundStop.drawFlag = s.drawFlag := rfl
@[simp] theorem State.signalSoundStop_mem : s.signalSoundStop.mem = s.mem := rfl
@[simp] theorem State.signalSoundStop_seed : s.signalSoundStop.seed = s.seed := rfl
@[simp] theorem State.signalSoundStop_randCount : s.signalSoundStop.randCount = s.randCount := rfl
@[simp] theorem State.signalSoundStop_cfg : s.signalSoundStop.cfg = s.cfg := rfl
@[simp] theorem State.signalSoundStop_draws : s.signalSoundStop.draws = s.draws := rfl
@[simp] theorem State.signalSoundStop_out : s.signalSoundStop.out = { s.out with soundStop := true } := rfl
@[simp] theorem State.signalSoundStop_getV (r : Reg) : s.signalSoundStop.getV r = s.getV r := rfl
@[simp] theorem State.signalSoundStop_byteAt (j : Nat) : s.signalSoundStop.byteAt j = s.byteAt j := rfl
@[simp] theorem State.signalSoundStop_readMem (j : Nat) : s.signalSoundStop.readMem j = s.readMem j := rfl
@[simp] theorem State.signalSoundStop_fbByte (j : Nat) : s.signalSoundStop.fbByte j = s.fbByte j := rfl
@[simp] theorem State.signalSoundStop_pixel (r c : Nat) : s.signalSoundStop.pixel r c = s.pixel r c := rfl
@[simp] theorem State.signalSoundStop_pressedKeys : s.signalSoundStop.pressedKeys = s.pressedKeys := rfl
@[simp] theorem State.signalSoundStop_fetch : s.signalSoundStop.fetch = s.fetch := rfl

end

/-! ### beginTransaction -/

section
variable (s : State)

@[simp] theorem State.beginTransaction_v : s.beginTransaction.v = s.v := rfl
@[simp] theorem State.beginTransaction_regI : s.beginTransaction.regI = s.regI := rfl
@[simp] theorem State.beginTransaction_pc : s.beginTransaction.pc = s.pc := rfl
@[simp] theorem State.beginTransaction_sp : s.beginTransaction.sp = s.sp := rfl
@[simp] theorem State.beginTransaction_stack : s.beginTransaction.stack = s.stack := rfl
@[simp] theorem State.beginTransaction_dt : s.beginTransaction.dt = s.dt := rfl
@[simp] theorem State.beginTransaction_st : s.beginTransaction.st = s.st := rfl
@[simp] theorem State.beginTransaction_key : s.beginTransaction.key = s.key := rfl
@[simp] theorem State.beginTransaction_fb : s.beginTransaction.fb = s.fb := rfl
@[simp] theorem State.beginTransaction_drawFlag : s.beginTransaction.drawFlag = s.drawFlag := rfl
@[simp] theorem State.beginTransaction_mem : s.beginTransaction.mem = s.mem := rfl
@[simp] theorem State.beginTransaction_seed : s.beginTransaction.seed = s.seed := rfl
@[simp] theorem State.beginTransaction_randCount : s.beginTransaction.randCount = s.randCount := rfl
@[simp] theorem State.beginTransaction_cfg : s.beginTransaction.cfg = s.cfg := rfl
@[simp] theorem State.beginTransaction_draws : s.beginTransaction.draws = s.draws := rfl
@[simp] theorem State.beginTransaction_out : s.beginTransaction.out = Outputs.none := rfl
@[simp] theorem State.beginTransaction_getV (r : Reg) : s.beginTransaction.getV r = s.getV r := rfl
@[simp] theorem State.beginTransaction_byteAt (j : Nat) : s.beginTransaction.byteAt j = s.byteAt j := rfl
@[simp] theorem State.beginTransaction_readMem (j : Nat) : s.beginTransaction.readMem j = s.readMem j := rfl
@[simp] theorem State.beginTransaction_fbByte (j : Nat) : s.beginTransaction.fbByte j = s.fbByte j := rfl
@[simp] theorem State.beginTransaction_pixel (r c : Nat) : s.beginTransaction.pixel r c = s.pixel r c := rfl
@[simp] theorem State.beginTransaction_pressedKeys : s.beginTransaction.pressedKeys = s.pressedKeys := rfl
@[simp] theorem State.beginTransaction_fetch : s.beginTransaction.fetch = s.fetch := rfl

end

/-! ### setKey -/

section
variable (s : State) (k : Key) (b : Bool)

@[simp] theorem State.setKey_v : (s.setKey k b).v = s.v := rfl
@[simp] theorem State.setKey_regI : (s.setKey k b).regI = s.regI := rfl
@[simp] theorem State.setKey_pc : (s.setKey k b).pc = s.pc := rfl
@[simp] theorem State.setKey_sp : (s.setKey k b).sp = s.sp := rfl
@[simp] theorem State.setKey_stack : (s.setKey k b).stack = s.stack := rfl
@[simp] theorem State.setKey_dt : (s.setKey k b).dt = s.dt := rfl
@[simp] theorem State.setKey_st : (s.setKey k b).st = s.st := rfl
@[simp] theorem State.setKey_key : (s.setKey k b).key = s.key.set k.val b := rfl
@[simp] theorem State.setKey_fb : (s.setKey k b).fb = s.fb := rfl
@[simp] theorem State.setKey_drawFlag : (s.setKey k b).drawFlag = s.drawFlag := rfl
@[simp] theorem State.setKey_mem : (s.setKey k b).mem = s.mem := rfl
@[simp] theorem State.setKey_seed : (s.setKey k b).seed = s.seed := rfl
@[simp] theorem State.setKey_randCount : (s.setKey k b).randCount = s.randCount := rfl
@[simp] theorem State.setKey_cfg : (s.setKey k b).cfg = s.cfg := rfl
@[simp] theorem State.setKey_draws : (s.setKey k b).draws = s.draws := rfl
@[simp] theorem State.setKey_out : (s.setKey k b).out = s.out := rfl
@[simp] theorem State.setKey_getV (r : Reg) : (s.setKey k b).getV r = s.getV r := rfl
@[simp] theorem State.setKey_byteAt (j : Nat) : (s.setKey k b).byteAt j = s.byteAt j := rfl
@[simp] theorem State.setKey_readMem (j : Nat) : (s.setKey k b).readMem j = s.readMem j := rfl
@[simp] theorem State.setKey_fbByte (j : Nat) : (s.setKey k b).fbByte j = s.fbByte j := rfl
@[simp] theorem State.setKey_pixel (r c : Nat) : (s.setKey k b).pixel r c = s.pixel r c := rfl
@[simp] theorem State.setKey_fetch : (s.setKey k b).fetch = s.fetch := rfl

end

/-! ### setLoadResult -/

section
variable (s : State) (r : LoadResult)

@[simp] theorem State.setLoadResult_v : (s.setLoadResult r).v = s.v := rfl
@[simp] theorem State.setLoadResult_regI : (s.setLoadResult r).regI = s.regI := rfl
@[simp] theorem State.setLoadResult_pc : (s.setLoadResult r).pc = s.pc := rfl
@[simp] theorem State.setLoadResult_sp : (s.setLoadResult r).sp = s.sp := rfl
@[simp] theorem State.setLoadResult_stack : (s.setLoadResult r).stack = s.stack := rfl
@[simp] theorem State.setLoadResult_dt : (s.setLoadResult r).dt = s.dt := rfl
@[simp] theorem State.setLoadResult_st : (s.setLoadResult r).st = s.st := rfl
@[simp] theorem State.setLoadResult_key : (s.setLoadResult r).key = s.key := rfl
@[simp] theorem State.setLoadResult_fb : (s.setLoadResult r).fb = s.fb := rfl
@[simp] theorem State.setLoadResult_drawFlag : (s.setLoadResult r).drawFlag = s.drawFlag := rfl
@[simp] theorem State.setLoadResult_mem : (s.setLoadResult r).mem = s.mem := rfl
@[simp] theorem State.setLoadResult_seed : (s.setLoadResult r).seed = s.seed := rfl
@[simp] theorem State.setLoadResult_randCount : (s.setLoadResult r).randCount = s.randCount := rfl
@[simp] theorem State.setLoadResult_cfg : (s.setLoadResult r).cfg = s.cfg := rfl
@[simp] theorem State.setLoadResult_draws : (s.setLoadResult r).draws = s.draws := rfl
@[simp] theorem State.setLoadResult_out : (s.setLoadResult r).out = { s.out with loadResult := some r } := rfl
@[simp] theorem State.setLoadResult_getV (r' : Reg) : (s.setLoadResult r).getV r' = s.getV r' := rfl
@[simp] theorem State.setLoadResult_byteAt (j : Nat) : (s.setLoadResult r).byteAt j = s.byteAt j := rfl
@[simp] theorem State.setLoadResult_readMem (j : Nat) : (s.setLoadResult r).readMem j = s.readMem j := rfl
@[simp] theorem State.setLoadResult_fbByte (j : Nat) : (s.setLoadResult r).fbByte j = s.fbByte j := rfl
@[simp] theorem State.setLoadResult_pixel (r' c : Nat) : (s.setLoadResult r).pixel r' c = s.pixel r' c := rfl
@[simp] theorem State.setLoadResult_pressedKeys : (s.setLoadResult r).pressedKeys = s.pressedKeys := rfl
@[simp] theorem State.setLoadResult_fetch : (s.setLoadResult r).fetch = s.fetch := rfl

end

end Sys2Proof.Machine
end

