-- ==== Sys2Proof/Laws/Ops.lean ====
section
/-! SUPPORT. What each shared operation can do, said once: registers, the stack, result and flag, draws,
keys, timers, and the step. -/

namespace Sys2Proof.Machine

/-! ## Registers -/

theorem State.getV_setV (s : State) (x r : Reg) (b : Byte) :
    (s.setV x b).getV r = if r = x then b else s.getV r := by
  simp only [State.getV, State.setV, Vector.getElem_set, Fin.ext_iff, eq_comm]

@[simp] theorem State.getV_setV_same (s : State) (x : Reg) (b : Byte) : (s.setV x b).getV x = b := by
  simp [State.getV_setV]

theorem State.getV_setV_ne (s : State) {x r : Reg} (b : Byte) (h : r ≠ x) :
    (s.setV x b).getV r = s.getV r := by
  simp [State.getV_setV, h]

/-! ## The call stack (R76, R77) -/

theorem State.push_of_room (s : State) (v w : Word) (h : s.sp.val < 16) :
    s.push v w = (true, { s with stack := s.stack.set s.sp.val v, sp := ⟨s.sp.val + 1, by omega⟩ }) := by
  simp [State.push, h]

theorem State.push_of_full (s : State) (v w : Word) (h : s.sp.val = 16) :
    s.push v w = (false, s.raise (.stackOverflow s.pc w)) := by
  simp [State.push, h]

theorem State.pop_of_some (s : State) (w : Word) (h : 0 < s.sp.val) :
    s.pop w = (some (s.stack[s.sp.val - 1]'(by omega)), { s with sp := ⟨s.sp.val - 1, by omega⟩ }) := by
  simp [State.pop, Nat.ne_of_gt h]

theorem State.pop_of_empty (s : State) (w : Word) (h : s.sp.val = 0) :
    s.pop w = (none, s.raise (.stackUnderflow s.pc w)) := by
  simp [State.pop, h]

/-- A stack fault writes at most PC. -/
theorem State.stackFault_eq (s : State) : s.stackFault = { s with pc := s.stackFault.pc } := by
  unfold State.stackFault
  split <;> rfl

theorem State.stackFault_pc (s : State) :
    s.stackFault.pc = match s.cfg.stackFaultPc with | .hold => s.pc | .advance => s.pc + 2 := by
  unfold State.stackFault
  cases s.cfg.stackFaultPc <;> rfl

/-! ## Result and flag (R89, R104) -/

/-- write_rf writes the general registers only. -/
theorem State.writeRF_eq (s : State) (x : Reg) (r : Byte) (f : Bool) :
    s.writeRF x r f = { s with v := (s.writeRF x r f).v } := by
  unfold State.writeRF
  split <;> rfl

/-- VF after write_rf: the flag, unless x = 15 under `result_last` (R89). -/
theorem State.getV_vf_writeRF (s : State) (x : Reg) (r : Byte) (f : Bool) :
    (s.writeRF x r f).getV vf = if x = vf ∧ s.cfg.vfOrder = .resultLast then r else flagByte f := by
  unfold State.writeRF
  split <;> rename_i h
  · simp [h]
  · by_cases hx : x = vf
    · subst hx; simp [h]
    · simp [State.getV_setV, Ne.symm hx, hx]

/-- V[x] after write_rf, for x ≠ 15: the result (R89). -/
theorem State.getV_dest_writeRF (s : State) {x : Reg} (r : Byte) (f : Bool) (h : x ≠ vf) :
    (s.writeRF x r f).getV x = r := by
  unfold State.writeRF
  split
  · simp [State.getV_setV, h]
  · simp

/-- Every other register after write_rf. -/
theorem State.getV_other_writeRF (s : State) {x k : Reg} (r : Byte) (f : Bool) (hx : k ≠ x) (hv : k ≠ vf) :
    (s.writeRF x r f).getV k = s.getV k := by
  unfold State.writeRF
  split <;> simp [State.getV_setV, hx, hv]

/-- FX1E's flag writes at most VF. -/
theorem State.writeFx1eFlag_eq (s : State) (t : Nat) :
    s.writeFx1eFlag t = { s with v := (s.writeFx1eFlag t).v } := by
  unfold State.writeFx1eFlag
  split
  · rfl
  · split <;> rfl

theorem State.getV_writeFx1eFlag (s : State) (t : Nat) (r : Reg) :
    (s.writeFx1eFlag t).getV r =
      if r = vf ∧ t > fx1eLimitValue s.cfg then 1
      else if r = vf ∧ s.cfg.fx1eNoOverflow = .clear then 0
      else s.getV r := by
  unfold State.writeFx1eFlag
  by_cases ht : t > fx1eLimitValue s.cfg
  · by_cases hr : r = vf <;> simp [ht, hr, State.getV_setV]
  · cases hc : s.cfg.fx1eNoOverflow <;> by_cases hr : r = vf <;> simp [ht, hr, State.getV_setV]

/-! ## Draws and keys (R101, R111, R115) -/

/-- CXNN's byte advances the draw number or the CXNN count, and nothing else. -/
theorem State.randomByte_eq (s : State) :
    s.randomByte.2 = { s with draws := s.randomByte.2.draws, randCount := s.randomByte.2.randCount } := by
  unfold State.randomByte
  split <;> rfl

/-- A key lookup advances at most the draw number. -/
theorem State.pressed_eq (s : State) (b : Byte) :
    (s.pressed b).2 = { s with draws := (s.pressed b).2.draws } := by
  unfold State.pressed
  split
  · rfl
  · split <;> rfl

/-- A value up to 15 reads its key (R111). -/
theorem State.pressed_of_lt (s : State) {b : Byte} (h : b.toNat < 16) :
    s.pressed b = (s.key[b.toNat], s) := by
  simp [State.pressed, h]

/-- Taking a key advances at most the draw number. -/
theorem State.selectKey_eq (s : State) (k : Key) (ks : List Key) :
    (s.selectKey k ks).2 = { s with draws := (s.selectKey k ks).2.draws } := by
  unfold State.selectKey
  split <;> rfl

/-- The key taken is one of the pressed keys (R115). -/
theorem State.selectKey_mem (s : State) (k : Key) (ks : List Key) : (s.selectKey k ks).1 ∈ k :: ks := by
  unfold State.selectKey
  split
  · exact List.getElem_mem _
  · exact List.mem_cons_self ..

/-- P holds exactly the pressed keys (R115). -/
theorem State.mem_pressedKeys (s : State) (k : Key) : k ∈ s.pressedKeys ↔ s.key[k.val] = true := by
  simp [State.pressedKeys]

/-! ## Timers (R130, R131) -/

theorem State.timerUpdate_dt (s : State) : s.timerUpdate.dt = if s.dt = 0 then 0 else s.dt - 1 := by
  unfold State.timerUpdate State.tickSt State.tickDt
  by_cases h : s.dt = 0 <;> simp only [h, if_true, if_false] <;> split <;> (try split) <;> simp [*]

theorem State.timerUpdate_st (s : State) : s.timerUpdate.st = if s.st = 0 then 0 else s.st - 1 := by
  have h1 : s.tickDt.st = s.st := by unfold State.tickDt; split <;> rfl
  unfold State.timerUpdate State.tickSt
  rw [h1]
  by_cases h : s.st = 0
  · rw [if_pos h, if_pos h, h1, h]
  · rw [if_neg h, if_neg h]
    split <;> rfl

/-- The timer update signals the sound stop exactly when it takes ST from 1 to 0 (R131). -/
theorem State.timerUpdate_out (s : State) :
    s.timerUpdate.out = if s.st = 1 then { s.out with soundStop := true } else s.out := by
  have h1 : s.tickDt.st = s.st := by unfold State.tickDt; split <;> rfl
  have h2 : s.tickDt.out = s.out := by unfold State.tickDt; split <;> rfl
  have h3 : s.st - 1 = 0 ↔ s.st = 1 := by constructor <;> intro h <;> bv_omega
  unfold State.timerUpdate State.tickSt
  rw [h1]
  by_cases h : s.st = 0
  · have h4 : ¬ s.st = 1 := by rw [h]; decide
    rw [if_pos h, if_neg h4, h2]
  · rw [if_neg h]
    by_cases h4 : s.st = 1
    · rw [if_pos (h3.2 h4), if_pos h4, State.signalSoundStop_out, State.setSt_out, h2]
    · rw [if_neg fun e => h4 (h3.1 e), if_neg h4, State.setSt_out, h2]

/-- The timer update writes the timers and the outputs only. -/
theorem State.timerUpdate_eq (s : State) :
    s.timerUpdate =
      { s with dt := s.timerUpdate.dt, st := s.timerUpdate.st, out := s.timerUpdate.out } := by
  unfold State.timerUpdate State.tickSt State.tickDt
  split <;> split <;> (try split) <;> rfl

/-! ## The step (R65, R69) -/

/-- A step that answers a next state ran the decoded instruction, or the ILLEGAL rule, and then the timer
update. -/
theorem step_cases {s t : State} (h : step s = .next t) :
    (∃ i u, decodeWord s.fetch = .ok i ∧ exec i s.beginTransaction = .next u ∧ t = u.timerUpdate) ∨
    (∃ e, decodeWord s.fetch = .error e ∧ t = (s.beginTransaction.illegal s.fetch).timerUpdate) := by
  unfold step runStep at h
  split at h
  · rename_i i hi
    refine .inl ⟨i, ?_⟩
    unfold finishStep at h
    split at h <;> cases h
    exact ⟨_, hi, ‹_›, rfl⟩
  · rename_i e he
    cases h
    exact .inr ⟨e, he, rfl⟩

end Sys2Proof.Machine
end

