-- ==== Sys2Proof/Laws/Display.lean ====
section
/-! SUPPORT. What drawing does: the sprite's set bits are a list of distinct pixels, each toggled once
(spec 40_display R73, R75). -/

namespace Sys2Proof.Machine

/-- The pixels under the set bits of a row byte, left to right (R73). -/
def rowTargets (ox oy r : Nat) (b : Byte) : List (Nat × Nat) :=
  ((List.range 8).filter (fun c => b.getLsbD (7 - c))).map
    (fun c => ((oy + r) % screenRows, (ox + c) % screenColumns))

/-- The pixels under the set bits of a sprite, row by row (R73). -/
def State.spriteTargets (s : State) (ox oy base n : Nat) : List (Nat × Nat) :=
  (List.range n).flatMap (fun r => rowTargets ox oy r (s.readMem (base + r)))

/-- Toggle each pixel of a list. -/
def State.toggleAll (s : State) (ps : List (Nat × Nat)) : State :=
  ps.foldl (fun t p => t.togglePixel p.1 p.2) s

/-- A toggle writes the framebuffer and the general registers only. -/
theorem State.togglePixel_eq (s : State) (r c : Nat) :
    s.togglePixel r c = { s with fb := (s.togglePixel r c).fb, v := (s.togglePixel r c).v } := by
  unfold State.togglePixel
  simp only
  split <;> rfl

theorem State.fbByte_togglePixel (s : State) (r c k : Nat) :
    (s.togglePixel r c).fbByte k =
      if k = pixelIndex r c then 1 - s.fbByte k else s.fbByte k := by
  have hv : ∀ t : State, t = s ∨ t = s.setV vf 1 →
      (t.setFb (pixelIndex r c) (1 - s.pixel r c)).fbByte k =
        if k = pixelIndex r c then 1 - s.fbByte k else s.fbByte k := by
    intro t ht
    rw [State.fbByte_setFb]
    have hs : t.fbByte k = s.fbByte k := by rcases ht with rfl | rfl <;> rfl
    split
    · next h => rw [h, State.pixel]
    · exact hs
  unfold State.togglePixel
  by_cases h : s.pixel r c = 1
  · simp only [h, if_true]
    exact h ▸ hv _ (.inr rfl)
  · simp only [h, if_false]
    exact hv _ (.inl rfl)

theorem State.getV_togglePixel (s : State) (r c : Nat) (x : Reg) :
    (s.togglePixel r c).getV x = if x = vf ∧ s.pixel r c = 1 then 1 else s.getV x := by
  unfold State.togglePixel
  by_cases h : s.pixel r c = 1
  · simp only [h, if_true, State.setFb_getV, State.getV_setV, and_true]
  · simp only [h, if_false, State.setFb_getV, and_false]

theorem State.toggleAll_eq (ps : List (Nat × Nat)) (s : State) :
    s.toggleAll ps = { s with fb := (s.toggleAll ps).fb, v := (s.toggleAll ps).v } := by
  induction ps generalizing s with
  | nil => rfl
  | cons p ps ih =>
    have h := ih (s.togglePixel p.1 p.2)
    simp only [State.toggleAll, List.foldl_cons] at h ⊢
    rw [h, State.togglePixel_eq]

/-- Distinct pixels of a list are each toggled once, and every other pixel is as before. -/
theorem State.fbByte_toggleAll (ps : List (Nat × Nat)) (s : State)
    (hd : (ps.map fun p => pixelIndex p.1 p.2).Nodup) (k : Nat) :
    (s.toggleAll ps).fbByte k =
      if k ∈ ps.map (fun p => pixelIndex p.1 p.2) then 1 - s.fbByte k else s.fbByte k := by
  induction ps generalizing s with
  | nil => rfl
  | cons p ps ih =>
    simp only [List.map_cons, List.nodup_cons] at hd
    have h := ih (s.togglePixel p.1 p.2) hd.2
    simp only [State.toggleAll, List.foldl_cons] at h ⊢
    rw [h, State.fbByte_togglePixel]
    simp only [List.map_cons, List.mem_cons]
    by_cases hk : k = pixelIndex p.1 p.2
    · subst hk
      simp [hd.1]
    · rw [if_neg hk]
      simp only [or_iff_right hk]

/-- VF is 1 when a pixel of the list was on, and every other register is as before. -/
theorem State.getV_toggleAll (ps : List (Nat × Nat)) (s : State)
    (hd : (ps.map fun p => pixelIndex p.1 p.2).Nodup) (x : Reg) :
    ((∃ p ∈ ps, s.pixel p.1 p.2 = 1) ∧ x = vf → (s.toggleAll ps).getV x = 1) ∧
    (¬ ((∃ p ∈ ps, s.pixel p.1 p.2 = 1) ∧ x = vf) → (s.toggleAll ps).getV x = s.getV x) := by
  induction ps generalizing s with
  | nil => simp [State.toggleAll]
  | cons p ps ih =>
    simp only [List.map_cons, List.nodup_cons] at hd
    have hsame : ∀ q ∈ ps, (s.togglePixel p.1 p.2).pixel q.1 q.2 = s.pixel q.1 q.2 := by
      intro q hq
      unfold State.pixel
      rw [State.fbByte_togglePixel, if_neg]
      intro e
      exact hd.1 (e ▸ List.mem_map_of_mem (f := fun p : Nat × Nat => pixelIndex p.1 p.2) hq)
    have hex : (∃ q ∈ ps, (s.togglePixel p.1 p.2).pixel q.1 q.2 = 1) ↔ ∃ q ∈ ps, s.pixel q.1 q.2 = 1 :=
      ⟨fun ⟨q, hq, h⟩ => ⟨q, hq, hsame q hq ▸ h⟩, fun ⟨q, hq, h⟩ => ⟨q, hq, (hsame q hq).symm ▸ h⟩⟩
    obtain ⟨h1, h2⟩ := ih (s.togglePixel p.1 p.2) hd.2
    rw [hex] at h1 h2
    have hfold : s.toggleAll (p :: ps) = (s.togglePixel p.1 p.2).toggleAll ps := rfl
    rw [hfold]
    by_cases hrest : (∃ q ∈ ps, s.pixel q.1 q.2 = 1) ∧ x = vf
    · refine ⟨fun _ => h1 hrest, fun hn => absurd ?_ hn⟩
      obtain ⟨⟨q, hq, hp⟩, hx⟩ := hrest
      exact ⟨⟨q, List.mem_cons_of_mem _ hq, hp⟩, hx⟩
    · rw [h2 hrest, State.getV_togglePixel]
      refine ⟨?_, ?_⟩
      · rintro ⟨⟨q, hq, hp⟩, hx⟩
        rcases List.mem_cons.1 hq with rfl | hq
        · simp [hx, hp]
        · exact absurd ⟨⟨q, hq, hp⟩, hx⟩ hrest
      · intro hn
        rw [if_neg]
        rintro ⟨hx, hp⟩
        exact hn ⟨⟨p, List.mem_cons_self .., hp⟩, hx⟩

/-- A row of a sprite toggles its targets. -/
theorem State.drawRow_eq (s : State) (ox oy r : Nat) (b : Byte) :
    s.drawRow ox oy r b = s.toggleAll (rowTargets ox oy r b) := by
  unfold State.drawRow State.toggleAll rowTargets
  rw [List.foldl_map, List.foldl_filter]

/-- A sprite toggles its targets. -/
theorem State.drawSprite_eq (s : State) (ox oy base n : Nat) :
    s.drawSprite ox oy base n = s.toggleAll (s.spriteTargets ox oy base n) := by
  induction n with
  | zero => rfl
  | succ n ih =>
    have hd : s.drawSprite ox oy base (n + 1) =
        (s.drawSprite ox oy base n).drawRow ox oy n ((s.drawSprite ox oy base n).readMem (base + n)) := by
      unfold State.drawSprite
      rw [List.range_succ, List.foldl_append]
      rfl
    have hm : (s.drawSprite ox oy base n).readMem (base + n) = s.readMem (base + n) := by
      rw [ih, State.toggleAll_eq]
      rfl
    rw [hd, hm, State.drawRow_eq, ih]
    unfold State.spriteTargets State.toggleAll
    rw [List.range_succ, List.flatMap_append, List.foldl_append]
    simp

/-- The targets are the covered pixels. -/
theorem State.mem_spriteTargets (s : State) (ox oy base n r c : Nat) :
    (r, c) ∈ s.spriteTargets ox oy base n ↔ s.SpriteCovers ox oy base n r c := by
  simp only [State.spriteTargets, rowTargets, State.SpriteCovers, List.mem_flatMap, List.mem_range,
    List.mem_map, List.mem_filter, Prod.mk.injEq]
  constructor
  · rintro ⟨i, hi, j, ⟨hj, hb⟩, hr, hc⟩
    exact ⟨i, hi, j, hj, hr.symm, hc.symm, hb⟩
  · rintro ⟨i, hi, j, hj, hr, hc, hb⟩
    exact ⟨i, hi, j, ⟨hj, hb⟩, hr.symm, hc.symm⟩

/-- A row's targets are distinct: 8 columns are fewer than 64 (R75). -/
theorem rowTargets_nodup (ox oy r : Nat) (b : Byte) :
    ((rowTargets ox oy r b).map fun p => pixelIndex p.1 p.2).Nodup := by
  unfold rowTargets
  rw [List.map_map]
  refine List.Nodup.map_on ?_ (List.nodup_range.filter _)
  intro c hc c' hc' h
  simp only [List.mem_filter, List.mem_range] at hc hc'
  have hmod : ∀ k, k % screenColumns < screenColumns := fun k => Nat.mod_lt _ (by decide)
  have := ((pixelIndex_inj (hmod _) (hmod _)).1 h).2
  unfold screenColumns at this
  omega

/-- A sprite's targets are distinct: up to 32 rows do not wrap onto each other (R75). -/
theorem State.spriteTargets_nodup (s : State) (ox oy base : Nat) {n : Nat} (hn : n ≤ screenRows) :
    ((s.spriteTargets ox oy base n).map fun p => pixelIndex p.1 p.2).Nodup := by
  induction n with
  | zero => simp [State.spriteTargets]
  | succ n ih =>
    have hsplit : s.spriteTargets ox oy base (n + 1) =
        s.spriteTargets ox oy base n ++ rowTargets ox oy n (s.readMem (base + n)) := by
      unfold State.spriteTargets
      rw [List.range_succ, List.flatMap_append]
      simp
    rw [hsplit, List.map_append, List.nodup_append]
    refine ⟨ih (Nat.le_of_succ_le hn), rowTargets_nodup .., ?_⟩
    simp only [List.mem_map]
    rintro k ⟨⟨r, c⟩, hp, rfl⟩ _ ⟨⟨r', c'⟩, hq, rfl⟩ he
    obtain ⟨i, hi, j, -, hr, hc, -⟩ := (s.mem_spriteTargets ..).1 hp
    simp only [rowTargets, List.mem_map, List.mem_filter, Prod.mk.injEq] at hq
    obtain ⟨j', -, hr', hc'⟩ := hq
    subst hr hc hr' hc'
    have hmod : ∀ k, k % screenColumns < screenColumns := fun k => Nat.mod_lt _ (by decide)
    have := ((pixelIndex_inj (hmod _) (hmod _)).1 he).1
    unfold screenRows at this hn
    omega

/-- What a draw does, said once: the framebuffer and VF only; each covered pixel toggles once, every other
byte is as before; VF becomes 1 exactly when a covered pixel was on (R73, R75). -/
theorem State.drawSprite_spec (s : State) (ox oy base : Nat) {n : Nat} (hn : n ≤ screenRows) :
    s.drawSprite ox oy base n =
      { s with fb := (s.drawSprite ox oy base n).fb, v := (s.drawSprite ox oy base n).v } ∧
    (∀ r c, c < screenColumns → s.SpriteCovers ox oy base n r c →
      (s.drawSprite ox oy base n).pixel r c = 1 - s.pixel r c) ∧
    (∀ k, (∀ r c, s.SpriteCovers ox oy base n r c → k ≠ pixelIndex r c) →
      (s.drawSprite ox oy base n).fbByte k = s.fbByte k) ∧
    ((∃ r c, s.SpriteCovers ox oy base n r c ∧ s.pixel r c = 1) →
      (s.drawSprite ox oy base n).getV vf = 1) ∧
    ((¬ ∃ r c, s.SpriteCovers ox oy base n r c ∧ s.pixel r c = 1) →
      (s.drawSprite ox oy base n).getV vf = s.getV vf) ∧
    (∀ x, x ≠ vf → (s.drawSprite ox oy base n).getV x = s.getV x) := by
  have hd := s.spriteTargets_nodup ox oy base hn
  have hex : (∃ p ∈ s.spriteTargets ox oy base n, s.pixel p.1 p.2 = 1) ↔
      ∃ r c, s.SpriteCovers ox oy base n r c ∧ s.pixel r c = 1 :=
    ⟨fun ⟨p, hp, h⟩ => ⟨p.1, p.2, (s.mem_spriteTargets ..).1 hp, h⟩,
      fun ⟨r, c, hp, h⟩ => ⟨(r, c), (s.mem_spriteTargets ..).2 hp, h⟩⟩
  rw [State.drawSprite_eq]
  refine ⟨State.toggleAll_eq _ _, ?_, ?_, ?_, ?_, ?_⟩
  · intro r c _ hcov
    unfold State.pixel
    rw [State.fbByte_toggleAll _ _ hd, if_pos]
    exact List.mem_map.2 ⟨(r, c), (s.mem_spriteTargets ..).2 hcov, rfl⟩
  · intro k hk
    rw [State.fbByte_toggleAll _ _ hd, if_neg]
    intro hmem
    obtain ⟨⟨r, c⟩, hp, rfl⟩ := List.mem_map.1 hmem
    exact hk r c ((s.mem_spriteTargets ..).1 hp) rfl
  · exact fun h => (State.getV_toggleAll _ s hd vf).1 ⟨hex.2 h, rfl⟩
  · exact fun h => (State.getV_toggleAll _ s hd vf).2 fun hn => h (hex.1 hn.1)
  · exact fun x hx => (State.getV_toggleAll _ s hd x).2 fun hn => hx hn.2

end Sys2Proof.Machine
end

