-- ==== Sys2Proof/Laws/IndexMemory.lean ====
section
/-! SUPPORT. What the register ranges of FX55 and FX65 do (spec 43_index_memory R107 to R109). -/

namespace Sys2Proof.Machine

/-- range_regs holds V0 to VX, or V0 to V(X-1) (R109). -/
theorem mem_rangeRegs (c : Config) (x k : Reg) :
    k ∈ rangeRegs c x ↔ match c.loadStoreRange with | .inclusive => k ≤ x | .exclusive => k < x := by
  unfold rangeRegs
  cases c.loadStoreRange <;> simp

/-- range_regs is in rising order (R109). -/
theorem rangeRegs_sorted (c : Config) (x : Reg) : (rangeRegs c x).Pairwise (· < ·) := by
  unfold rangeRegs
  split <;> exact (List.pairwise_lt_finRange 16).filter _

/-- A store of registers writes memory only. -/
theorem State.storeRange_eq (ks : List Reg) (s : State) :
    s.storeRange ks = { s with mem := (s.storeRange ks).mem } := by
  induction ks generalizing s with
  | nil => rfl
  | cons k ks ih =>
    have h := ih (s.writeMem (s.indexed k.val) (s.getV k))
    simp only [State.storeRange, List.foldl_cons] at h ⊢
    rw [h]
    rfl

/-- A byte at no stored register's address is as before (R48, R107). -/
theorem State.byteAt_storeRange_ne (ks : List Reg) (s : State) (j : Nat)
    (h : ∀ k ∈ ks, ea s.cfg (s.indexed k.val) ≠ j) : (s.storeRange ks).byteAt j = s.byteAt j := by
  induction ks generalizing s with
  | nil => rfl
  | cons k ks ih =>
    have h1 := ih (s.writeMem (s.indexed k.val) (s.getV k)) fun k' hk' => h k' (List.mem_cons_of_mem _ hk')
    have h2 : (s.writeMem (s.indexed k.val) (s.getV k)).byteAt j = s.byteAt j := by
      rw [State.byteAt_writeMem, if_neg (h k (List.mem_cons_self ..)).symm]
    exact h1.trans h2

/-- The byte at a stored register's address is that register, the last stored where two share an address
(R107). -/
theorem State.byteAt_storeRange (ks : List Reg) (s : State) (hs : ks.Pairwise (· < ·)) {k : Reg}
    (hk : k ∈ ks) (hlast : ∀ k' ∈ ks, k < k' → ea s.cfg (s.indexed k'.val) ≠ ea s.cfg (s.indexed k.val)) :
    (s.storeRange ks).byteAt (ea s.cfg (s.indexed k.val)) = s.getV k := by
  induction ks generalizing s with
  | nil => cases hk
  | cons q ks ih =>
    rw [List.pairwise_cons] at hs
    have hfold : s.storeRange (q :: ks) = (s.writeMem (s.indexed q.val) (s.getV q)).storeRange ks := rfl
    rw [hfold]
    rcases List.mem_cons.1 hk with rfl | hk
    · rw [State.byteAt_storeRange_ne]
      · rw [State.byteAt_writeMem, if_pos rfl]
      · exact fun k' hk' => hlast k' (List.mem_cons_of_mem _ hk') (hs.1 k' hk')
    · exact ih (s.writeMem (s.indexed q.val) (s.getV q)) hs.2 hk
        fun k' hk' => hlast k' (List.mem_cons_of_mem _ hk')

/-- A load of registers writes the general registers only. -/
theorem State.loadRange_eq (ks : List Reg) (s : State) :
    s.loadRange ks = { s with v := (s.loadRange ks).v } := by
  induction ks generalizing s with
  | nil => rfl
  | cons k ks ih =>
    have h := ih (s.setV k (s.readMem (s.indexed k.val)))
    simp only [State.loadRange, List.foldl_cons] at h ⊢
    rw [h]
    rfl

/-- Each register of the range holds its byte, every other is as before (R108). -/
theorem State.getV_loadRange (ks : List Reg) (s : State) (r : Reg) :
    (s.loadRange ks).getV r = if r ∈ ks then s.readMem (s.indexed r.val) else s.getV r := by
  induction ks generalizing s with
  | nil => rfl
  | cons k ks ih =>
    have hfold : s.loadRange (k :: ks) = (s.setV k (s.readMem (s.indexed k.val))).loadRange ks := rfl
    have hr : (s.setV k (s.readMem (s.indexed k.val))).readMem
        ((s.setV k (s.readMem (s.indexed k.val))).indexed r.val) = s.readMem (s.indexed r.val) := rfl
    rw [hfold, ih, hr, State.getV_setV]
    by_cases h1 : r ∈ ks
    · simp [h1]
    · by_cases h2 : r = k
      · subst h2; simp
      · simp [h1, h2]

end Sys2Proof.Machine
end

