-- ==== Sys2Proof/Laws/Exec.lean ====
section
/-! SUPPORT. What EXECUTE can write, said once per instruction (spec 40_display to 44_keys_timers). -/

namespace Sys2Proof.Machine

/-! ## Return and call (R78, R81) -/

theorem exec_ret_of_some (s : State) (h : 0 < s.sp.val) :
    exec .ret s = .next (State.setPc { s with sp := ⟨s.sp.val - 1, by omega⟩ }
      (s.stack[s.sp.val - 1]'(by omega) + 2)) := by
  show execRet s = _
  unfold execRet
  rw [State.pop_of_some s _ h]

theorem exec_ret_of_empty (s : State) (h : s.sp.val = 0) :
    exec .ret s = .next (s.raise (.stackUnderflow s.pc (encode .ret))).stackFault := by
  show execRet s = _
  unfold execRet
  rw [State.pop_of_empty s _ h]

theorem exec_call_of_room (nnn : Addr) (s : State) (h : s.sp.val < 16) :
    exec (.call nnn) s = .next (State.setPc
      { s with sp := ⟨s.sp.val + 1, by omega⟩, stack := s.stack.set s.sp.val s.pc } (addrWord nnn)) := by
  show execCall nnn s = _
  unfold execCall
  rw [State.push_of_room s _ _ h]

theorem exec_call_of_full (nnn : Addr) (s : State) (h : s.sp.val = 16) :
    exec (.call nnn) s = .next (s.raise (.stackOverflow s.pc (encode (.call nnn)))).stackFault := by
  show execCall nnn s = _
  unfold execCall
  rw [State.push_of_full s _ _ h]

/-! ## What each instruction can write -/

/-- The next state is `s` but for the fields the instruction can write. -/
def ExecFrame (i : Instr) (s t : State) : Prop :=
  match i with
  | .cls => t = { s with fb := t.fb, drawFlag := true, pc := t.pc }
  | .drw _ _ _ => t = { s with v := t.v, fb := t.fb, drawFlag := true, pc := t.pc }
  | .ret => t = { s with sp := t.sp, pc := t.pc, out := t.out }
  | .call _ => t = { s with sp := t.sp, stack := t.stack, pc := t.pc, out := t.out }
  | .sys _ | .jp _ | .jpV0 _ | .seImm _ _ | .sneImm _ _ | .seReg _ _ | .sneReg _ _ => t = { s with pc := t.pc }
  | .ldImm _ _ | .addImm _ _ | .ldReg _ _ | .orReg _ _ | .andReg _ _ | .xorReg _ _ | .addReg _ _
  | .subReg _ _ | .shrReg _ _ | .subnReg _ _ | .shlReg _ _ | .ldVDt _ | .loadRegs _ =>
    t = { s with v := t.v, pc := t.pc }
  | .rnd _ _ => t = { s with v := t.v, pc := t.pc, draws := t.draws, randCount := t.randCount }
  | .ldI _ | .ldF _ => t = { s with regI := t.regI, pc := t.pc }
  | .addI _ => t = { s with regI := t.regI, v := t.v, pc := t.pc }
  | .skp _ | .sknp _ => t = { s with pc := t.pc, draws := t.draws }
  | .ldVKey _ => t = { s with v := t.v, pc := t.pc, draws := t.draws }
  | .ldDt _ => t = { s with dt := t.dt, pc := t.pc }
  | .ldSt _ => t = { s with st := t.st, pc := t.pc }
  | .ldB _ | .storeRegs _ => t = { s with mem := t.mem, pc := t.pc }

theorem exec_frame {i : Instr} {s t : State} (h : exec i s = .next t) : ExecFrame i s t := by
  cases i
  case ret =>
    by_cases h0 : s.sp.val = 0
    · rw [exec_ret_of_empty s h0] at h; cases h; rw [State.stackFault_eq]; rfl
    · rw [exec_ret_of_some s (by omega)] at h; cases h; rfl
  case call =>
    by_cases h0 : s.sp.val < 16
    · rw [exec_call_of_room _ s h0] at h; cases h; rfl
    · rw [exec_call_of_full _ s (by omega)] at h; cases h; rw [State.stackFault_eq]; rfl
  case ldVKey =>
    simp only [exec, execLdVKey] at h
    split at h <;> cases h
    · rfl
    · rw [State.selectKey_eq]; rfl
  case drw => cases h; rw [State.drawSprite_eq, State.toggleAll_eq]; rfl
  case storeRegs => cases h; rw [State.storeRange_eq]; rfl
  case loadRegs => cases h; rw [State.loadRange_eq]; rfl
  case skp => cases h; rw [State.pressed_eq]; rfl
  case sknp => cases h; rw [State.pressed_eq]; rfl
  case rnd => cases h; rw [State.randomByte_eq]; rfl
  case addReg => cases h; rw [State.writeRF_eq]; rfl
  case subReg => cases h; rw [State.writeRF_eq]; rfl
  case subnReg => cases h; rw [State.writeRF_eq]; rfl
  case shrReg => cases h; rw [State.writeRF_eq]; rfl
  case shlReg => cases h; rw [State.writeRF_eq]; rfl
  case addI => cases h; rw [State.writeFx1eFlag_eq]; rfl
  all_goals (cases h; rfl)

end Sys2Proof.Machine
end

