-- ==== Sys2Proof/Laws/Fields.lean ====
section
/-! SUPPORT. The fields and the masked bits of a word written nibble by nibble, one lemma per format and
field (spec 30_encoding R58, R59). -/

namespace Sys2Proof

variable (c x y n : Nibble) (b : Byte) (a : Addr)

/-! ## Fields -/

theorem extract_x_byte : (c ++ x ++ b).extractLsb 11 8 = x := by
  apply BitVec.eq_of_getLsbD_eq
  intro i hi
  have : i < 4 := hi
  simp only [BitVec.getLsbD_extractLsb, BitVec.getLsbD_append]
  interval_cases i <;> simp

theorem extract_nn : (c ++ x ++ b).extractLsb 7 0 = b := by
  apply BitVec.eq_of_getLsbD_eq
  intro i hi
  have : i < 8 := hi
  simp only [BitVec.getLsbD_extractLsb, BitVec.getLsbD_append]
  interval_cases i <;> simp

theorem extract_nnn : (c ++ a).extractLsb 11 0 = a := by
  apply BitVec.eq_of_getLsbD_eq
  intro i hi
  have : i < 12 := hi
  simp only [BitVec.getLsbD_extractLsb, BitVec.getLsbD_append]
  interval_cases i <;> simp

theorem extract_x_nibbles : (c ++ x ++ y ++ n).extractLsb 11 8 = x := by
  apply BitVec.eq_of_getLsbD_eq
  intro i hi
  have : i < 4 := hi
  simp only [BitVec.getLsbD_extractLsb, BitVec.getLsbD_append]
  interval_cases i <;> simp

theorem extract_y_nibbles : (c ++ x ++ y ++ n).extractLsb 7 4 = y := by
  apply BitVec.eq_of_getLsbD_eq
  intro i hi
  have : i < 4 := hi
  simp only [BitVec.getLsbD_extractLsb, BitVec.getLsbD_append]
  interval_cases i <;> simp

theorem extract_n_nibbles : (c ++ x ++ y ++ n).extractLsb 3 0 = n := by
  apply BitVec.eq_of_getLsbD_eq
  intro i hi
  have : i < 4 := hi
  simp only [BitVec.getLsbD_extractLsb, BitVec.getLsbD_append]
  interval_cases i <;> simp

theorem fieldX_byte (r : Reg) : fieldX (c ++ regBits r ++ b) = r :=
  congrArg BitVec.toFin (extract_x_byte c (regBits r) b)

theorem fieldX_nibbles (r : Reg) : fieldX (c ++ regBits r ++ y ++ n) = r :=
  congrArg BitVec.toFin (extract_x_nibbles c (regBits r) y n)

theorem fieldY_nibbles (r : Reg) : fieldY (c ++ x ++ regBits r ++ n) = r :=
  congrArg BitVec.toFin (extract_y_nibbles c x (regBits r) n)

/-! ## Masked words -/

/-- The class nibble of a word of nibbles. -/
theorem mask_class_nibbles : (c ++ x ++ y ++ n) &&& 0xF000#16 = c ++ 0#12 := by
  apply BitVec.eq_of_getLsbD_eq
  intro i hi
  simp only [BitVec.getLsbD_and, BitVec.getLsbD_append]
  interval_cases i <;> simp

theorem mask_class_byte : (c ++ x ++ b) &&& 0xF000#16 = c ++ 0#12 := by
  apply BitVec.eq_of_getLsbD_eq
  intro i hi
  simp only [BitVec.getLsbD_and, BitVec.getLsbD_append]
  interval_cases i <;> simp

theorem mask_class_addr : (c ++ a) &&& 0xF000#16 = c ++ 0#12 := by
  apply BitVec.eq_of_getLsbD_eq
  intro i hi
  simp only [BitVec.getLsbD_and, BitVec.getLsbD_append]
  interval_cases i <;> simp

/-- The class and function nibbles (formats XY). -/
theorem mask_function_nibble : (c ++ x ++ y ++ n) &&& 0xF00F#16 = c ++ 0#8 ++ n := by
  apply BitVec.eq_of_getLsbD_eq
  intro i hi
  simp only [BitVec.getLsbD_and, BitVec.getLsbD_append]
  interval_cases i <;> simp

/-- The class nibble and the function byte (format X). -/
theorem mask_function_byte : (c ++ x ++ b) &&& 0xF0FF#16 = c ++ 0#4 ++ b := by
  apply BitVec.eq_of_getLsbD_eq
  intro i hi
  simp only [BitVec.getLsbD_and, BitVec.getLsbD_append]
  interval_cases i <;> simp

end Sys2Proof
end

