-- ==== Sys2Proof/Laws/Invariant.lean ====
section
/-! SUPPORT. The operations that store keep the invariant of spec 10_state R32. -/

namespace Sys2Proof.Machine

/-- Memory after reset is in canonical form (R33). -/
theorem State.reset_mem_wf : Memory.wf (initialByte State.reset.cfg) memorySize State.reset.mem :=
  Memory.wf_nil _ _

/-- The invariant looks at the memory, the framebuffer and the parameters only. -/
theorem State.inv_congr {s t : State} (h : s.Inv) (hm : t.mem = s.mem) (hf : t.fb = s.fb)
    (hc : t.cfg = s.cfg) : t.Inv := by
  unfold State.Inv State.PixelsBinary at *
  rw [hm, hf, hc]
  exact h

/-- A memory write keeps the invariant: `ea` keeps it in the array (R32, R40). -/
theorem State.inv_writeMem {s : State} (h : s.Inv) (a : Nat) (b : Byte) : (s.writeMem a b).Inv :=
  ⟨Memory.wf_write _ h.1 (ea_lt _ _) _, h.2⟩

/-- A framebuffer write of 0 or 1 on the screen keeps the invariant (R32). -/
theorem State.inv_setFb {s : State} (h : s.Inv) {k : Nat} (hk : k < screenSize) {b : Byte}
    (hb : b = 0 ∨ b = 1) : (s.setFb k b).Inv := by
  refine ⟨h.1, Memory.wf_write _ h.2.1 hk _, fun p hp => ?_⟩
  rcases Memory.mem_write _ hp with ⟨rfl, -⟩ | hp
  · exact hb
  · exact h.2.2 p hp

/-- Under the invariant every framebuffer byte reads 0 or 1 (R25, R32). -/
theorem State.fbByte_binary {s : State} (h : s.Inv) (k : Nat) : s.fbByte k = 0 ∨ s.fbByte k = 1 := by
  rcases Memory.read_cases darkPixel s.fb k with hm | hm
  · exact h.2.2 _ hm
  · exact .inl hm

/-- A toggle on the screen keeps the invariant (R32, R73). -/
theorem State.inv_togglePixel {s : State} (h : s.Inv) {r c : Nat} (hr : r < screenRows)
    (hc : c < screenColumns) : (s.togglePixel r c).Inv := by
  have hb : (1 - s.pixel r c : Byte) = 0 ∨ (1 - s.pixel r c : Byte) = 1 := by
    rcases State.fbByte_binary h (pixelIndex r c) with e | e <;>
      simp only [State.pixel, e] <;> decide
  have hk := pixelIndex_lt hr hc
  unfold State.togglePixel
  dsimp only
  split
  · exact State.inv_setFb (State.inv_congr h rfl rfl rfl) hk hb
  · exact State.inv_setFb h hk hb

/-- Two canonical byte stores that read alike are equal. -/
theorem Memory.eq_of_reads (d : Nat → Byte) {size : Nat} {m m' : Memory} (h : Memory.wf d size m)
    (h' : Memory.wf d size m') (hr : ∀ a, Memory.read d m a = Memory.read d m' a) : m = m' := by
  have hsub : ∀ {m m' : Memory}, Memory.wf d size m → Memory.wf d size m' →
      (∀ a, Memory.read d m a = Memory.read d m' a) → ∀ p ∈ m, p ∈ m' := by
    intro m m' h _ hr p hp
    have hv := Memory.read_of_mem d h.1 hp
    rcases Memory.read_cases d m' p.1 with hm | hm
    · rwa [← hr, hv] at hm
    · exact absurd (hv.symm.trans ((hr p.1).trans hm)) (h.2 p hp).2
  refine List.Perm.eq_of_pairwise (le := fun p q : Host.Cell => p.1 < q.1) ?_ h.1 h'.1 ?_
  · intro p q _ _ h1 h2
    exact absurd h1 (Nat.lt_asymm h2)
  · refine (List.perm_ext_iff_of_nodup ?_ ?_).2 fun p => ⟨hsub h h' hr p, hsub h' h (fun a => (hr a).symm) p⟩
    · exact h.1.imp fun {p q} hlt e => by subst e; exact Nat.lt_irrefl _ hlt
    · exact h'.1.imp fun {p q} hlt e => by subst e; exact Nat.lt_irrefl _ hlt

end Sys2Proof.Machine
end

