-- ==== Sys2Proof/Laws/PerInstr.lean ====
section
/-! SUPPORT. Per instruction: some row of the opcode table matches its word and builds the instruction back
from it, so no bit of its encoding is dropped (spec 30_encoding R59, R63). That the FIRST matching row does
so is another matter, which rests on R62. -/

namespace Sys2Proof.Laws.Encoding

/-- A row of the opcode table matches the instruction's word and builds the instruction from it. -/
def Statement (i : Instr) : Prop :=
  ∃ r ∈ opcodeRows, OpcodeRow.hits (encode i) r = true ∧ r.build (encode i) = i

/-- The statement from the position of the row in the table. -/
theorem of_row {i : Instr} (k : Fin opcodeRows.length)
    (h : OpcodeRow.hits (encode i) opcodeRows[k] = true) (hb : opcodeRows[k].build (encode i) = i) :
    Statement i :=
  ⟨_, List.getElem_mem k.isLt, h, hb⟩

/-- A row matches when the word's masked bits are the row's value. -/
theorem hits_of_eq {w v : Word} {r : OpcodeRow} (h : w &&& r.mask = v) (hv : v = r.value) :
    OpcodeRow.hits w r = true := beq_iff_eq.2 (h.trans hv)

theorem cls : Statement .cls := of_row ⟨0, by decide⟩ rfl rfl

theorem ret : Statement .ret := of_row ⟨1, by decide⟩ rfl rfl

theorem sys (nnn : Addr) : Statement (.sys nnn) :=
  of_row ⟨2, by decide⟩ (hits_of_eq (mask_class_addr 0x0 nnn) rfl)
    (congrArg Instr.sys (extract_nnn 0x0 nnn))

theorem jp (nnn : Addr) : Statement (.jp nnn) :=
  of_row ⟨3, by decide⟩ (hits_of_eq (mask_class_addr 0x1 nnn) rfl)
    (congrArg Instr.jp (extract_nnn 0x1 nnn))

theorem call (nnn : Addr) : Statement (.call nnn) :=
  of_row ⟨4, by decide⟩ (hits_of_eq (mask_class_addr 0x2 nnn) rfl)
    (congrArg Instr.call (extract_nnn 0x2 nnn))

theorem seImm (x : Reg) (nn : Byte) : Statement (.seImm x nn) :=
  of_row ⟨5, by decide⟩ (hits_of_eq (mask_class_byte 0x3 (regBits x) nn) rfl)
    (congrArg₂ Instr.seImm (fieldX_byte 0x3 nn x) (extract_nn 0x3 (regBits x) nn))

theorem sneImm (x : Reg) (nn : Byte) : Statement (.sneImm x nn) :=
  of_row ⟨6, by decide⟩ (hits_of_eq (mask_class_byte 0x4 (regBits x) nn) rfl)
    (congrArg₂ Instr.sneImm (fieldX_byte 0x4 nn x) (extract_nn 0x4 (regBits x) nn))

theorem seReg (x y : Reg) : Statement (.seReg x y) :=
  of_row ⟨7, by decide⟩ (hits_of_eq (mask_function_nibble 0x5 (regBits x) (regBits y) 0x0) rfl)
    (congrArg₂ Instr.seReg (fieldX_nibbles 0x5 (regBits y) 0x0 x) (fieldY_nibbles 0x5 (regBits x) 0x0 y))

theorem ldImm (x : Reg) (nn : Byte) : Statement (.ldImm x nn) :=
  of_row ⟨8, by decide⟩ (hits_of_eq (mask_class_byte 0x6 (regBits x) nn) rfl)
    (congrArg₂ Instr.ldImm (fieldX_byte 0x6 nn x) (extract_nn 0x6 (regBits x) nn))

theorem addImm (x : Reg) (nn : Byte) : Statement (.addImm x nn) :=
  of_row ⟨9, by decide⟩ (hits_of_eq (mask_class_byte 0x7 (regBits x) nn) rfl)
    (congrArg₂ Instr.addImm (fieldX_byte 0x7 nn x) (extract_nn 0x7 (regBits x) nn))

theorem ldReg (x y : Reg) : Statement (.ldReg x y) :=
  of_row ⟨10, by decide⟩ (hits_of_eq (mask_function_nibble 0x8 (regBits x) (regBits y) 0x0) rfl)
    (congrArg₂ Instr.ldReg (fieldX_nibbles 0x8 (regBits y) 0x0 x) (fieldY_nibbles 0x8 (regBits x) 0x0 y))

theorem orReg (x y : Reg) : Statement (.orReg x y) :=
  of_row ⟨11, by decide⟩ (hits_of_eq (mask_function_nibble 0x8 (regBits x) (regBits y) 0x1) rfl)
    (congrArg₂ Instr.orReg (fieldX_nibbles 0x8 (regBits y) 0x1 x) (fieldY_nibbles 0x8 (regBits x) 0x1 y))

theorem andReg (x y : Reg) : Statement (.andReg x y) :=
  of_row ⟨12, by decide⟩ (hits_of_eq (mask_function_nibble 0x8 (regBits x) (regBits y) 0x2) rfl)
    (congrArg₂ Instr.andReg (fieldX_nibbles 0x8 (regBits y) 0x2 x) (fieldY_nibbles 0x8 (regBits x) 0x2 y))

theorem xorReg (x y : Reg) : Statement (.xorReg x y) :=
  of_row ⟨13, by decide⟩ (hits_of_eq (mask_function_nibble 0x8 (regBits x) (regBits y) 0x3) rfl)
    (congrArg₂ Instr.xorReg (fieldX_nibbles 0x8 (regBits y) 0x3 x) (fieldY_nibbles 0x8 (regBits x) 0x3 y))

theorem addReg (x y : Reg) : Statement (.addReg x y) :=
  of_row ⟨14, by decide⟩ (hits_of_eq (mask_function_nibble 0x8 (regBits x) (regBits y) 0x4) rfl)
    (congrArg₂ Instr.addReg (fieldX_nibbles 0x8 (regBits y) 0x4 x) (fieldY_nibbles 0x8 (regBits x) 0x4 y))

theorem subReg (x y : Reg) : Statement (.subReg x y) :=
  of_row ⟨15, by decide⟩ (hits_of_eq (mask_function_nibble 0x8 (regBits x) (regBits y) 0x5) rfl)
    (congrArg₂ Instr.subReg (fieldX_nibbles 0x8 (regBits y) 0x5 x) (fieldY_nibbles 0x8 (regBits x) 0x5 y))

theorem shrReg (x y : Reg) : Statement (.shrReg x y) :=
  of_row ⟨16, by decide⟩ (hits_of_eq (mask_function_nibble 0x8 (regBits x) (regBits y) 0x6) rfl)
    (congrArg₂ Instr.shrReg (fieldX_nibbles 0x8 (regBits y) 0x6 x) (fieldY_nibbles 0x8 (regBits x) 0x6 y))

theorem subnReg (x y : Reg) : Statement (.subnReg x y) :=
  of_row ⟨17, by decide⟩ (hits_of_eq (mask_function_nibble 0x8 (regBits x) (regBits y) 0x7) rfl)
    (congrArg₂ Instr.subnReg (fieldX_nibbles 0x8 (regBits y) 0x7 x) (fieldY_nibbles 0x8 (regBits x) 0x7 y))

theorem shlReg (x y : Reg) : Statement (.shlReg x y) :=
  of_row ⟨18, by decide⟩ (hits_of_eq (mask_function_nibble 0x8 (regBits x) (regBits y) 0xE) rfl)
    (congrArg₂ Instr.shlReg (fieldX_nibbles 0x8 (regBits y) 0xE x) (fieldY_nibbles 0x8 (regBits x) 0xE y))

theorem sneReg (x y : Reg) : Statement (.sneReg x y) :=
  of_row ⟨19, by decide⟩ (hits_of_eq (mask_function_nibble 0x9 (regBits x) (regBits y) 0x0) rfl)
    (congrArg₂ Instr.sneReg (fieldX_nibbles 0x9 (regBits y) 0x0 x) (fieldY_nibbles 0x9 (regBits x) 0x0 y))

theorem ldI (nnn : Addr) : Statement (.ldI nnn) :=
  of_row ⟨20, by decide⟩ (hits_of_eq (mask_class_addr 0xA nnn) rfl)
    (congrArg Instr.ldI (extract_nnn 0xA nnn))

theorem jpV0 (nnn : Addr) : Statement (.jpV0 nnn) :=
  of_row ⟨21, by decide⟩ (hits_of_eq (mask_class_addr 0xB nnn) rfl)
    (congrArg Instr.jpV0 (extract_nnn 0xB nnn))

theorem rnd (x : Reg) (nn : Byte) : Statement (.rnd x nn) :=
  of_row ⟨22, by decide⟩ (hits_of_eq (mask_class_byte 0xC (regBits x) nn) rfl)
    (congrArg₂ Instr.rnd (fieldX_byte 0xC nn x) (extract_nn 0xC (regBits x) nn))

theorem drw (x y : Reg) (n : Nibble) : Statement (.drw x y n) := by
  refine of_row ⟨23, by decide⟩ (hits_of_eq (mask_class_nibbles 0xD (regBits x) (regBits y) n) rfl) ?_
  show Instr.drw _ _ _ = _
  rw [Instr.drw.injEq]
  exact ⟨fieldX_nibbles 0xD (regBits y) n x, fieldY_nibbles 0xD (regBits x) n y,
    extract_n_nibbles 0xD (regBits x) (regBits y) n⟩

theorem skp (x : Reg) : Statement (.skp x) :=
  of_row ⟨24, by decide⟩ (hits_of_eq (mask_function_byte 0xE (regBits x) 0x9E) rfl)
    (congrArg Instr.skp (fieldX_byte 0xE 0x9E x))

theorem sknp (x : Reg) : Statement (.sknp x) :=
  of_row ⟨25, by decide⟩ (hits_of_eq (mask_function_byte 0xE (regBits x) 0xA1) rfl)
    (congrArg Instr.sknp (fieldX_byte 0xE 0xA1 x))

theorem ldVDt (x : Reg) : Statement (.ldVDt x) :=
  of_row ⟨26, by decide⟩ (hits_of_eq (mask_function_byte 0xF (regBits x) 0x07) rfl)
    (congrArg Instr.ldVDt (fieldX_byte 0xF 0x07 x))

theorem ldVKey (x : Reg) : Statement (.ldVKey x) :=
  of_row ⟨27, by decide⟩ (hits_of_eq (mask_function_byte 0xF (regBits x) 0x0A) rfl)
    (congrArg Instr.ldVKey (fieldX_byte 0xF 0x0A x))

theorem ldDt (x : Reg) : Statement (.ldDt x) :=
  of_row ⟨28, by decide⟩ (hits_of_eq (mask_function_byte 0xF (regBits x) 0x15) rfl)
    (congrArg Instr.ldDt (fieldX_byte 0xF 0x15 x))

theorem ldSt (x : Reg) : Statement (.ldSt x) :=
  of_row ⟨29, by decide⟩ (hits_of_eq (mask_function_byte 0xF (regBits x) 0x18) rfl)
    (congrArg Instr.ldSt (fieldX_byte 0xF 0x18 x))

theorem addI (x : Reg) : Statement (.addI x) :=
  of_row ⟨30, by decide⟩ (hits_of_eq (mask_function_byte 0xF (regBits x) 0x1E) rfl)
    (congrArg Instr.addI (fieldX_byte 0xF 0x1E x))

theorem ldF (x : Reg) : Statement (.ldF x) :=
  of_row ⟨31, by decide⟩ (hits_of_eq (mask_function_byte 0xF (regBits x) 0x29) rfl)
    (congrArg Instr.ldF (fieldX_byte 0xF 0x29 x))

theorem ldB (x : Reg) : Statement (.ldB x) :=
  of_row ⟨32, by decide⟩ (hits_of_eq (mask_function_byte 0xF (regBits x) 0x33) rfl)
    (congrArg Instr.ldB (fieldX_byte 0xF 0x33 x))

theorem storeRegs (x : Reg) : Statement (.storeRegs x) :=
  of_row ⟨33, by decide⟩ (hits_of_eq (mask_function_byte 0xF (regBits x) 0x55) rfl)
    (congrArg Instr.storeRegs (fieldX_byte 0xF 0x55 x))

theorem loadRegs (x : Reg) : Statement (.loadRegs x) :=
  of_row ⟨34, by decide⟩ (hits_of_eq (mask_function_byte 0xF (regBits x) 0x65) rfl)
    (congrArg Instr.loadRegs (fieldX_byte 0xF 0x65 x))

end Sys2Proof.Laws.Encoding
end

