-- ==== Sys2Proof/Tests/Slice0.lean ====
section
/-! SUPPORT. The model's own tests: the well-formedness smoke test, the decoding of words written out from
spec 30_encoding R63, single steps with the expected values of spec 95_test_vectors (its row ids stand in the
docstrings), and for every statement with hypotheses a witness that meets them. -/

namespace Sys2Proof.Tests

open Sys2Proof.Machine

/-! ## Helpers -/

/-- The state after reset with the word `w` at PC. -/
def start (w : Nat) : State := State.reset.withFetchWord 16 w

/-- `start` with a PC. -/
def startAt (p w : Nat) : State := { State.reset with pc := BitVec.ofNat 16 p }.withFetchWord 16 w

/-- The parameters of `s` changed by `f`. -/
def reconfigured (s : State) (f : Config → Config) : State := { s with cfg := f s.cfg }

/-- What `f` reads from a next state; none for a fault or a refusal. -/
def seen {α : Type} (f : State → α) : Result → Option α
  | .next t => some (f t)
  | .fault _ => none
  | .refused _ => none

/-- What `f` reads from the result of a step. -/
def stepped {α : Type} (s : State) (f : State → α) : Option α := seen f (step s)

/-! ## Well-formedness (R62, R79) -/

theorem test_sys_0E0_is_ill_formed : ¬ (Instr.sys 0x0E0).WellFormed := by decide
theorem test_sys_0EE_is_ill_formed : ¬ (Instr.sys 0x0EE).WellFormed := by decide
theorem test_sys_0E1_is_well_formed : (Instr.sys 0x0E1).WellFormed := by decide

/-! ## Decoding: each constructor by a word written out from its pattern of R63 -/

theorem test_decode_display : decodeWord 0x00E0 = .ok .cls ∧ decodeWord 0xD3A7 = .ok (.drw 3 10 7) := ⟨rfl, rfl⟩

theorem test_decode_control :
    decodeWord 0x00EE = .ok .ret ∧ decodeWord 0x0ABC = .ok (.sys 0xABC) ∧ decodeWord 0x1234 = .ok (.jp 0x234) ∧
    decodeWord 0x2FED = .ok (.call 0xFED) ∧ decodeWord 0x3B5C = .ok (.seImm 11 0x5C) ∧
    decodeWord 0x4B5C = .ok (.sneImm 11 0x5C) ∧ decodeWord 0x51E0 = .ok (.seReg 1 14) ∧
    decodeWord 0x91E0 = .ok (.sneReg 1 14) ∧ decodeWord 0xB789 = .ok (.jpV0 0x789) :=
  ⟨rfl, rfl, rfl, rfl, rfl, rfl, rfl, rfl, rfl⟩

theorem test_decode_alu :
    decodeWord 0x632A = .ok (.ldImm 3 0x2A) ∧ decodeWord 0x7FC1 = .ok (.addImm 15 0xC1) ∧
    decodeWord 0x82D0 = .ok (.ldReg 2 13) ∧ decodeWord 0x82D1 = .ok (.orReg 2 13) ∧
    decodeWord 0x82D2 = .ok (.andReg 2 13) ∧ decodeWord 0x82D3 = .ok (.xorReg 2 13) ∧
    decodeWord 0x82D4 = .ok (.addReg 2 13) ∧ decodeWord 0x82D5 = .ok (.subReg 2 13) ∧
    decodeWord 0x82D6 = .ok (.shrReg 2 13) ∧ decodeWord 0x82D7 = .ok (.subnReg 2 13) ∧
    decodeWord 0x82DE = .ok (.shlReg 2 13) ∧ decodeWord 0xC4F0 = .ok (.rnd 4 0xF0) :=
  ⟨rfl, rfl, rfl, rfl, rfl, rfl, rfl, rfl, rfl, rfl, rfl, rfl⟩

theorem test_decode_index_memory :
    decodeWord 0xA2F0 = .ok (.ldI 0x2F0) ∧ decodeWord 0xF31E = .ok (.addI 3) ∧ decodeWord 0xF729 = .ok (.ldF 7) ∧
    decodeWord 0xFA33 = .ok (.ldB 10) ∧ decodeWord 0xF255 = .ok (.storeRegs 2) ∧
    decodeWord 0xFE65 = .ok (.loadRegs 14) :=
  ⟨rfl, rfl, rfl, rfl, rfl, rfl⟩

theorem test_decode_keys_timers :
    decodeWord 0xE19E = .ok (.skp 1) ∧ decodeWord 0xE5A1 = .ok (.sknp 5) ∧ decodeWord 0xF307 = .ok (.ldVDt 3) ∧
    decodeWord 0xF20A = .ok (.ldVKey 2) ∧ decodeWord 0xFC15 = .ok (.ldDt 12) ∧ decodeWord 0xF018 = .ok (.ldSt 0) :=
  ⟨rfl, rfl, rfl, rfl, rfl, rfl⟩

/-- VC20, VA35, VA36, VK19, VM25, E10: words no row matches. -/
theorem test_decode_illegal :
    decodeWord 0x5121 = .error (.illegalWord 0x5121) ∧ decodeWord 0x8008 = .error (.illegalWord 0x8008) ∧
    decodeWord 0x800F = .error (.illegalWord 0x800F) ∧ decodeWord 0x9121 = .error (.illegalWord 0x9121) ∧
    decodeWord 0xE0FF = .error (.illegalWord 0xE0FF) ∧ decodeWord 0xF000 = .error (.illegalWord 0xF000) ∧
    decodeWord 0xFFFF = .error (.illegalWord 0xFFFF) :=
  ⟨rfl, rfl, rfl, rfl, rfl, rfl, rfl⟩

/-- R43: bits 15..8 stand at the lower address. -/
theorem test_decode_bytes : decodeBytes [0x63, 0x2A, 0x12] = .ok (.ldImm 3 0x2A, [0x12]) := rfl

/-- R57: an instruction is two bytes. -/
theorem test_decode_one_byte : decodeBytes [0x63] = .error .truncated := rfl

theorem test_decode_table_word :
    decodeTableWord 16 0xD3A7 = some (.drw 3 10 7) ∧ decodeTableWord 16 0x8008 = none := ⟨rfl, rfl⟩

/-- VC4 with the encoder: nnn = 0xABC. -/
theorem test_encode : encode (.sys 0xABC) = 0x0ABC ∧ encode (.drw 3 10 7) = 0xD3A7 := by decide

/-- Program P4 of 95_test_vectors: its listing assembles to its image. -/
theorem test_assemble :
    assemble [.line ⟨"LD", [.i, .addr 0x20C]⟩, .line ⟨"LD", [.v 0, .byte 63]⟩, .line ⟨"LD", [.v 1, .byte 0]⟩,
        .line ⟨"DRW", [.v 0, .v 1, .nibble 1]⟩, .line ⟨"DRW", [.v 0, .v 1, .nibble 1]⟩,
        .line ⟨"JP", [.addr 0x20A]⟩, .db [0xC0, 0x00]] =
      some [0xA2, 0x0C, 0x60, 0x3F, 0x61, 0x00, 0xD0, 0x11, 0xD0, 0x11, 0x12, 0x0A, 0xC0, 0x00] := by decide

/-! ## Display -/

/-- VD1 -/
theorem test_cls : stepped { start 0x00E0 with fb := [(0, 1), (2047, 1)] } (fun t => (t.fb, t.drawFlag, t.pc)) =
    some ([], true, 0x202) := by decide

/-- VD15 -/
theorem test_drw_toggles_and_collides :
    stepped { (((start 0xD011).writeMem 0x300 0xE0).setV 0 1).setV 1 3 with regI := 0x300, fb := [(194, 1)] }
      (fun t => (t.fb, t.getV vf, t.drawFlag)) = some ([(193, 1), (195, 1)], 1, true) := by decide

/-- E8 in both directions: R73's coordinates wrap. -/
theorem test_drw_wraps :
    stepped { ((((start 0xD012).writeMem 0x300 0xC0).writeMem 0x301 0xC0).setV 0 63).setV 1 31 with regI := 0x300 }
      (fun t => (t.fb, t.getV vf)) =
    some ([(pixelIndex 0 0, 1), (pixelIndex 0 63, 1), (pixelIndex 31 0, 1), (pixelIndex 31 63, 1)], 0) := by decide

/-! ## Control transfer -/

/-- VC1 -/
theorem test_ret : stepped { startAt 0x310 0x00EE with sp := 1, stack := State.reset.stack.set 0 0x204 }
    (fun t => (t.pc, t.sp, t.stack[0])) = some (0x206, 0, 0x204) := by decide

/-- VC2 -/
theorem test_ret_underflow :
    stepped (startAt 0x300 0x00EE) (fun t => (t.pc, t.sp, t.out.diag)) =
      some (0x300, 0, [.stackUnderflow 0x300 0x00EE]) ∧
    stepped (reconfigured (startAt 0x300 0x00EE) ({ · with stackFaultPc := .advance })) (fun t => t.pc) =
      some 0x302 := by decide

/-- VC4 -/
theorem test_sys : stepped (start 0x0ABC) (fun t => (t.pc, t.sp)) = some (0xABC, 0) := by decide

/-- VC6 -/
theorem test_jp : stepped (start 0x1234) (fun t => t.pc) = some 0x234 := by decide

/-- VC9 -/
theorem test_call : stepped { startAt 0x300 0x2400 with sp := 15 } (fun t => (t.pc, t.sp, t.stack[15])) =
    some (0x400, 16, 0x300) := by decide

/-- VT6, and VC10 under `advance` -/
theorem test_call_overflow :
    stepped { startAt 0x240 0x2300 with sp := 16, dt := 1 } (fun t => (t.pc, t.sp, t.dt, t.out.diag)) =
      some (0x240, 16, 0, [.stackOverflow 0x240 0x2300]) ∧
    stepped (reconfigured { startAt 0x240 0x2300 with sp := 16 } ({ · with stackFaultPc := .advance }))
      (fun t => t.pc) = some 0x242 := by decide

/-- VC11, VC12 -/
theorem test_seImm : stepped ((start 0x3210).setV 2 0x10) (fun t => t.pc) = some 0x204 ∧
    stepped ((start 0x3211).setV 2 0x10) (fun t => t.pc) = some 0x202 := by decide

/-- VC13, VC14 -/
theorem test_sneImm : stepped ((start 0x4211).setV 2 0x10) (fun t => t.pc) = some 0x204 ∧
    stepped ((start 0x4210).setV 2 0x10) (fun t => t.pc) = some 0x202 := by decide

/-- VC15, VC16 -/
theorem test_seReg : stepped (((start 0x5120).setV 1 7).setV 2 7) (fun t => t.pc) = some 0x204 ∧
    stepped (((start 0x5120).setV 1 7).setV 2 8) (fun t => t.pc) = some 0x202 := by decide

/-- VC18, VC19 -/
theorem test_sneReg : stepped (((start 0x9120).setV 1 7).setV 2 8) (fun t => t.pc) = some 0x204 ∧
    stepped (((start 0x9120).setV 1 7).setV 2 7) (fun t => t.pc) = some 0x202 := by decide

/-- VC23 -/
theorem test_jpV0 : stepped ((start 0xBFFF).setV 0 0xFF) (fun t => t.pc) = some 0x10FE := by decide

/-! ## Registers and ALU -/

/-- VA1 -/
theorem test_ldImm : stepped (start 0x632A) (fun t => (t.getV 3, t.pc)) = some (0x2A, 0x202) := by decide

/-- VA3 -/
theorem test_addImm : stepped (((start 0x7003).setV 0 0xFE).setV 15 0x77) (fun t => (t.getV 0, t.getV 15)) =
    some (0x01, 0x77) := by decide

/-- VA6 -/
theorem test_ldReg : stepped ((start 0x8150).setV 5 0x33) (fun t => (t.getV 1, t.getV 5)) =
    some (0x33, 0x33) := by decide

/-- VA7 -/
theorem test_orReg : stepped ((((start 0x8121).setV 1 0x0F).setV 2 0xF0).setV 15 0x42)
    (fun t => (t.getV 1, t.getV 15)) = some (0xFF, 0x42) := by decide

/-- VA8 -/
theorem test_andReg : stepped (((start 0x8122).setV 1 0x3C).setV 2 0x0F) (fun t => t.getV 1) =
    some 0x0C := by decide

/-- VA9 -/
theorem test_xorReg : stepped (((start 0x8123).setV 1 0x3C).setV 2 0x0F) (fun t => t.getV 1) =
    some 0x33 := by decide

/-- VA11, VA16 -/
theorem test_addReg :
    stepped (((start 0x8124).setV 1 0xFF).setV 2 0x01) (fun t => (t.getV 1, t.getV 15)) = some (0x00, 1) ∧
    stepped (((start 0x81F4).setV 1 0x10).setV 15 0x01) (fun t => (t.getV 1, t.getV 15)) =
      some (0x11, 0) := by decide

/-- VA15 -/
theorem test_addReg_into_vf :
    stepped (((start 0x8F14).setV 1 0xFF).setV 15 0x01) (fun t => t.getV 15) = some 1 ∧
    stepped (reconfigured (((start 0x8F14).setV 1 0xFF).setV 15 0x01) ({ · with vfOrder := .resultLast }))
      (fun t => t.getV 15) = some 0 := by decide

/-- VA17, VA18 -/
theorem test_subReg :
    stepped (((start 0x8125).setV 1 0x01).setV 2 0x02) (fun t => (t.getV 1, t.getV 15)) = some (0xFF, 0) ∧
    stepped (((start 0x8125).setV 1 0x05).setV 2 0x05) (fun t => (t.getV 1, t.getV 15)) = some (0, 1) := by decide

/-- VA20 -/
theorem test_subReg_into_vf :
    stepped (((start 0x8F15).setV 15 0x05).setV 1 0x07) (fun t => t.getV 15) = some 0 ∧
    stepped (reconfigured (((start 0x8F15).setV 15 0x05).setV 1 0x07) ({ · with vfOrder := .resultLast }))
      (fun t => t.getV 15) = some 0xFE := by decide

/-- VA21, VA23 -/
theorem test_shrReg :
    stepped ((start 0x8406).setV 4 0x05) (fun t => (t.getV 4, t.getV 15)) = some (0x02, 1) ∧
    stepped ((start 0x8126).setV 2 0x03) (fun t => (t.getV 1, t.getV 15)) = some (0x00, 0) ∧
    stepped (reconfigured ((start 0x8126).setV 2 0x03) ({ · with shiftSource := .vy }))
      (fun t => (t.getV 1, t.getV 15)) = some (0x01, 1) := by decide

/-- VA25, VA27 -/
theorem test_subnReg :
    stepped (((start 0x8127).setV 1 0x05).setV 2 0x03) (fun t => (t.getV 1, t.getV 15)) = some (0xFE, 0) ∧
    stepped (((start 0x8127).setV 1 0x44).setV 2 0x44) (fun t => (t.getV 1, t.getV 15)) = some (0, 1) := by decide

/-- VA28, VA32 -/
theorem test_shlReg :
    stepped ((start 0x840E).setV 4 0x81) (fun t => (t.getV 4, t.getV 15)) = some (0x02, 1) ∧
    stepped (((start 0x812E).setV 1 0x01).setV 2 0x80) (fun t => (t.getV 1, t.getV 15)) = some (0x02, 0) ∧
    stepped (reconfigured (((start 0x812E).setV 1 0x01).setV 2 0x80) ({ · with shiftSource := .vy }))
      (fun t => (t.getV 1, t.getV 15)) = some (0x00, 1) := by decide

/-- VA33: any drawn byte, masked with 0. The drawn byte itself is free, so no test names one. -/
theorem test_rnd : stepped (start 0xC000) (fun t => (t.pc, t.draws)) = some (0x202, 1) := by decide

/-! ## Index register and memory -/

/-- VM1 -/
theorem test_ldI : stepped { start 0xA2F0 with regI := 0xFFFF } (fun t => t.regI) = some 0x02F0 := by decide

/-- VM3, VM6 -/
theorem test_addI :
    stepped { (start 0xF01E).setV 0 0x01 with regI := 0xFFFF } (fun t => (t.regI, t.getV 15)) = some (0, 1) ∧
    stepped { (start 0xFF1E).setV 15 0x20 with regI := 0x0100 } (fun t => (t.regI, t.getV 15)) =
      some (0x0120, 0) := by decide

/-- VM4, VM5 -/
theorem test_addI_parameters :
    stepped { (start 0xF01E).setV 0 0x01 with regI := 0x0FFF } (fun t => (t.regI, t.getV 15)) =
      some (0x1000, 0) ∧
    stepped (reconfigured { (start 0xF01E).setV 0 0x01 with regI := 0x0FFF } ({ · with fx1eLimit := .addr12 }))
      (fun t => t.getV 15) = some 1 ∧
    stepped (reconfigured { ((start 0xF01E).setV 0 0x01).setV 15 0x07 with regI := 0x0100 }
      ({ · with fx1eNoOverflow := .keep })) (fun t => t.getV 15) = some 0x07 := by decide

/-- VM8, VM11 -/
theorem test_ldF : stepped ((start 0xF729).setV 7 0x0A) (fun t => t.regI) = some 0x0082 ∧
    stepped ((start 0xF029).setV 0 0xFF) (fun t => t.regI) = some 0x054B := by decide

/-- VM12 -/
theorem test_ldB : stepped { (start 0xF533).setV 5 0x9C with regI := 0x300 }
    (fun t => (t.readMem 0x300, t.readMem 0x301, t.readMem 0x302, t.regI)) =
      some (0x01, 0x05, 0x06, 0x300) := by decide

/-- VM17 -/
theorem test_ldB_at_the_top :
    stepped { (start 0xF033).setV 0 0x7B with regI := 0xFFF }
      (fun t => (t.byteAt 0xFFF, t.byteAt 0, t.byteAt 1)) = some (0x01, 0x02, 0x03) ∧
    stepped (reconfigured { (start 0xF033).setV 0 0x7B with regI := 0xFFF } ({ · with addrPolicy := .clamp }))
      (fun t => (t.byteAt 0xFFF, t.byteAt 0, t.byteAt 1)) = some (0x03, 0, 0) := by decide

/-- VM18 -/
theorem test_storeRegs :
    stepped { (((((start 0xF255).setV 0 1).setV 1 2).setV 2 3).setV 3 4).writeMem 0x403 0xEE with regI := 0x400 }
      (fun t => (t.readMem 0x400, t.readMem 0x401, t.readMem 0x402, t.readMem 0x403, t.regI)) =
        some (1, 2, 3, 0xEE, 0x400) := by decide

/-- VM19, VM21 -/
theorem test_storeRegs_parameters :
    stepped (reconfigured { (start 0xF055).setV 0 0xAB with regI := 0x400 } ({ · with loadStoreRange := .exclusive }))
      (fun t => t.readMem 0x400) = some 0 ∧
    stepped (reconfigured { (((start 0xF255).setV 0 0x0A).setV 1 0x0B).setV 2 0x0C with regI := 0xFFE }
      ({ · with addrPolicy := .clamp })) (fun t => (t.byteAt 0xFFE, t.byteAt 0xFFF, t.byteAt 0)) =
        some (0x0A, 0x0C, 0) := by decide

/-- The memory of VM22 to VM24. -/
def digitsStart : State :=
  { (((start 0xF265).writeMem 0x300 1).writeMem 0x301 5).writeMem 0x302 6 with regI := 0x300 }

/-- VM22 -/
theorem test_loadRegs : stepped (digitsStart.setV 3 0x77)
    (fun t => (t.getV 0, t.getV 1, t.getV 2, t.getV 3, t.regI)) = some (1, 5, 6, 0x77, 0x300) := by decide

/-- VM24 -/
theorem test_loadRegs_exclusive :
    stepped (reconfigured (digitsStart.setV 2 0x77) ({ · with loadStoreRange := .exclusive }))
      (fun t => (t.getV 0, t.getV 1, t.getV 2)) = some (1, 5, 0x77) := by decide

/-! ## Keys and timers -/

/-- VK1, VK2 -/
theorem test_skp : stepped (((start 0xE19E).setV 1 5).setKey 5 true) (fun t => t.pc) = some 0x204 ∧
    stepped ((start 0xE19E).setV 1 5) (fun t => t.pc) = some 0x202 := by decide

/-- VK5 under `low_nibble` and `not_pressed` -/
theorem test_skp_above_15 :
    stepped (reconfigured (((start 0xE19E).setV 1 0x15).setKey 5 true) ({ · with keyIndexPolicy := .lowNibble }))
      (fun t => t.pc) = some 0x204 ∧
    stepped (reconfigured (((start 0xE19E).setV 1 0x15).setKey 5 true) ({ · with keyIndexPolicy := .notPressed }))
      (fun t => t.pc) = some 0x202 := by decide

/-- VK3, VK4 -/
theorem test_sknp : stepped ((start 0xE1A1).setV 1 5) (fun t => t.pc) = some 0x204 ∧
    stepped (((start 0xE1A1).setV 1 5).setKey 5 true) (fun t => t.pc) = some 0x202 := by decide

/-- VK7 -/
theorem test_ldVDt : stepped { start 0xF307 with dt := 0x20 } (fun t => (t.getV 3, t.dt)) =
    some (0x20, 0x1F) := by decide

/-- VK9 -/
theorem test_ldVKey_waits : stepped { start 0xF20A with dt := 3 } (fun t => (t.pc, t.getV 2, t.dt)) =
    some (0x200, 0, 2) := by decide

/-- VK11 under `lowest` -/
theorem test_ldVKey_lowest :
    stepped (reconfigured (((start 0xF20A).setKey 3 true).setKey 9 true) ({ · with keyWaitSelect := .lowest }))
      (fun t => (t.pc, t.getV 2)) = some (0x202, 3) := by decide

/-- VK12 -/
theorem test_ldDt : stepped ((start 0xF015).setV 0 3) (fun t => t.dt) = some 2 := by decide

/-- VK16, VK17 -/
theorem test_ldSt :
    stepped ((start 0xF018).setV 0 1) (fun t => (t.st, t.out.soundStop)) = some (0, true) ∧
    stepped { start 0xF018 with st := 5 } (fun t => (t.st, t.out.soundStop)) = some (0, false) := by decide

/-! ## The step, reset and load -/

/-- E10 -/
theorem test_illegal : stepped { start 0xFFFF with dt := 5 } (fun t => (t.pc, t.dt, t.out.diag)) =
    some (0x202, 4, [.illegalInstruction 0x200 0xFFFF]) := by decide

/-- R120: the codes 1 to 4. -/
theorem test_diag_codes :
    [(Diag.illegalInstruction 0x200 0xFFFF).code, (Diag.stackOverflow 0x240 0x2300).code,
      (Diag.stackUnderflow 0x300 0x00EE).code, (Diag.loadTooLarge 3585).code] = [1, 2, 3, 4] := by decide

/-- VC27 -/
theorem test_fetch_across_the_top :
    stepped (startAt 0xFFF 0x1200) (fun t => t.pc) = some 0x200 ∧
    stepped (reconfigured (startAt 0xFFF 0x1200) ({ · with addrPolicy := .clamp })) (fun t => t.pc) =
      some 0x212 := by decide

/-- VT2, VT3 -/
theorem test_sound_timer :
    stepped { start 0x6000 with st := 2 } (fun t => (t.st, t.soundOn, t.out.soundStop)) = some (1, true, false) ∧
    stepped { start 0x6000 with st := 1 } (fun t => (t.st, t.soundOn, t.out.soundStop)) =
      some (0, false, true) := by decide

/-- E3: the first and the last glyph byte, and the bytes around the font. -/
theorem test_reset_font :
    (State.reset.byteAt 0x04F, State.reset.byteAt 0x050, State.reset.byteAt 0x051, State.reset.byteAt 0x09B,
      State.reset.byteAt 0x09F, State.reset.byteAt 0x0A0) = (0, 0xF0, 0x90, 0xF0, 0x80, 0) := by decide

/-- VR3 -/
theorem test_load : (State.reset.hostLoad [0x60, 0x05]).mem = [(0x200, 0x60), (0x201, 0x05)] ∧
    (State.reset.hostLoad [0x60, 0x05]).out.loadResult = some .success := by decide

/-- The step fetches what `withFetchWord` stores, as the first instruction after reset. -/
theorem test_fetch_word : (State.reset.withFetchWord 16 0xD3A7).fetch = 0xD3A7 := by decide

/-! ## Witnesses: states and operands that meet the hypotheses of each statement -/

theorem witness_ResetForgetsTheStateBefore :
    ∃ t, runHost [.load [0x60, 0x05], .step, .setKey 5 true] State.reset = .next t ∧ t.getV 0 = 5 ∧
      t.key[5] = true := ⟨_, rfl, by decide, by decide⟩

theorem witness_StepKeepsTheInvariant :
    { start 0x00E0 with fb := [(0, 1), (2047, 1)] }.Inv ∧
    ∃ t, step { start 0x00E0 with fb := [(0, 1), (2047, 1)] } = .next t := ⟨by decide, _, rfl⟩

theorem witness_HostHistoriesKeepTheInvariant : State.reset.Inv := by decide

theorem witness_DecodeOfEncodeIsTheInstruction :
    (Instr.sys 0x0E1).WellFormed ∧ (Instr.drw 15 0 15).WellFormed := by decide

theorem witness_EncodeOfDecodeIsTheWord : decodeWord 0xFF65 = .ok (.loadRegs 15) := rfl

/-- Both overlaps of R62. -/
theorem witness_OpcodeRowsOverlapOnlyInClassZero :
    ((⟨0, by decide⟩ : Fin opcodeRows.length) < ⟨2, by decide⟩ ∧
      OpcodeRow.hits 0x00E0 opcodeRows[0] = true ∧ OpcodeRow.hits 0x00E0 opcodeRows[2] = true) ∧
    ((⟨1, by decide⟩ : Fin opcodeRows.length) < ⟨2, by decide⟩ ∧
      OpcodeRow.hits 0x00EE opcodeRows[1] = true ∧ OpcodeRow.hits 0x00EE opcodeRows[2] = true) := by decide

theorem witness_LinesAssembleToTheirWords :
    assembleLine ⟨"ADD", [.v 1, .v 15]⟩ = some (.addReg 1 15) ∧ assemble [.db [0xC0, 0x00]] = some [0xC0, 0x00] := by
  decide

/-- The state after reset under `clamp`. -/
def clampReset : State := reconfigured State.reset ({ · with addrPolicy := .clamp })

/-- Both clauses, at the top of memory. -/
theorem witness_FetchReadsTwoBytesBigEndian :
    { State.reset with pc := 0xFFF }.cfg.addrPolicy = .wrap ∧ { clampReset with pc := 0xFFF }.cfg.addrPolicy = .clamp ∧
    ({ State.reset with pc := 0xFFF }.writeMem 0xFFF 0x12).fetch = 0x1200 ∧
    ({ clampReset with pc := 0xFFF }.writeMem 0xFFF 0x12).fetch = 0x1212 := by decide

/-- All four clauses, at an address above 4095. -/
theorem witness_MemoryWriteChangesOnlyItsByte :
    State.reset.cfg.addrPolicy = .wrap ∧ clampReset.cfg.addrPolicy = .clamp ∧ 4096 ≠ ea State.reset.cfg 4095 ∧
    ea State.reset.cfg 4096 = ea State.reset.cfg 0 ∧ ea clampReset.cfg 4096 = ea clampReset.cfg 4095 := by decide

/-- The premise at the highest PC that meets it under each policy, and that PC = 0xFFF fails it under `clamp`. -/
theorem witness_StoredInstructionIsFetchedNext :
    ea State.reset.cfg 0xFFF ≠ ea State.reset.cfg (0xFFF + 1) ∧ ea clampReset.cfg 0xFFE ≠ ea clampReset.cfg (0xFFE + 1) ∧
    ¬ ea clampReset.cfg 0xFFF ≠ ea clampReset.cfg (0xFFF + 1) := by decide

theorem witness_StepRunsTheDecodedInstruction :
    decodeWord ((start 0x632A).readMem 0x200 ++ (start 0x632A).readMem 0x201) = .ok (.ldImm 3 0x2A) := rfl

theorem witness_IllegalWordIsAReportedNoOp :
    decodeWord (start 0xFFFF).fetch = .error (.illegalWord 0xFFFF) := rfl

/-- A covered pixel that is on, one that is off, and an uncovered one. -/
theorem witness_DrwTogglesTheCoveredPixels :
    ({ State.reset with fb := [(0, 1)], regI := 0x300 }.writeMem 0x300 0xC0).SpriteCovers 0 0 0x300 1 0 0 ∧
    ({ State.reset with fb := [(0, 1)], regI := 0x300 }.writeMem 0x300 0xC0).pixel 0 0 = 1 ∧
    ({ State.reset with fb := [(0, 1)], regI := 0x300 }.writeMem 0x300 0xC0).SpriteCovers 0 0 0x300 1 0 1 ∧
    ({ State.reset with fb := [(0, 1)], regI := 0x300 }.writeMem 0x300 0xC0).pixel 0 1 = 0 ∧
    ¬ State.reset.SpriteCovers 0 0 0x300 0 31 63 :=
  ⟨⟨0, by decide, 0, by decide, by decide, by decide, by decide⟩, by decide,
    ⟨0, by decide, 1, by decide, by decide, by decide, by decide⟩, by decide,
    fun ⟨_, h, _⟩ => absurd h (Nat.not_lt_zero _)⟩

/-- VD3: glyph row F0 at the origin (0, 0). -/
def drawStart : State := { State.reset.writeMem 0x300 0xF0 with regI := 0x300 }

theorem witness_DrawingTwiceRestoresTheScreen :
    drawStart.Inv ∧ ∃ t, exec (.drw 0 1 1) drawStart = .next t ∧ t.getV 0 = drawStart.getV 0 ∧
      t.getV 1 = drawStart.getV 1 ∧ t.fb ≠ drawStart.fb := ⟨by decide, _, rfl, by decide, by decide, by decide⟩

/-- The hypotheses, on the state that refutes the statement: every covered pixel is on before the first draw. -/
theorem witness_SecondDrawCollidesWheneverTheSpriteHasABit :
    { drawStart with fb := [(0, 1), (1, 1), (2, 1), (3, 1)] }.Inv ∧
    ∃ t u, exec (.drw 0 1 1) { drawStart with fb := [(0, 1), (1, 1), (2, 1), (3, 1)] } = .next t ∧
      t.getV 0 = drawStart.getV 0 ∧ t.getV 1 = drawStart.getV 1 ∧ exec (.drw 0 1 1) t = .next u ∧ u.getV vf = 0 :=
  ⟨by decide, _, _, rfl, by decide, by decide, rfl, by decide⟩

/-- Each clause at the ends of its range. -/
theorem witness_RetPopsOrReportsUnderflow :
    0 < { State.reset with sp := 1 }.sp.val ∧ 0 < { State.reset with sp := 16 }.sp.val ∧ State.reset.sp.val = 0 := by
  decide

/-- Each clause at the ends of its range; at SP = 15 one slot stays. -/
theorem witness_CallPushesOrReportsOverflow :
    State.reset.sp.val < 16 ∧ { State.reset with sp := 15 }.sp.val < 16 ∧ (0 : Fin 16).val ≠ 15 ∧
    { State.reset with sp := 16 }.sp.val = 16 := by decide

theorem witness_ReturnResumesAfterTheCall : { State.reset with sp := 15 }.sp.val < 16 ∧ (14 : Fin 16).val < 15 := by
  decide

theorem witness_JumpsSetPc : (0x0E1 : Addr) ≠ 0x0E0 ∧ (0x0E1 : Addr) ≠ 0x0EE := by decide

/-- The premises under both shift sources. -/
theorem witness_ShiftsDropABitIntoVf :
    ((State.reset.cfg.shiftSource = .vx → (1 : Reg) = 1) ∧ (State.reset.cfg.shiftSource = .vy → (1 : Reg) = 2)) ∧
    (((reconfigured State.reset ({ · with shiftSource := .vy })).cfg.shiftSource = .vx → (2 : Reg) = 1) ∧
     ((reconfigured State.reset ({ · with shiftSource := .vy })).cfg.shiftSource = .vy → (2 : Reg) = 2)) := by decide

/-- Both random sources. -/
theorem witness_RandomByteIsMasked : State.reset.cfg.randomSource = .draw ∧
    (reconfigured State.reset ({ · with randomSource := .seeded })).cfg.randomSource = .seeded := by decide

/-- The premises under both limits. -/
theorem witness_AddToIndexSetsVf :
    ((State.reset.cfg.fx1eLimit = .reg16 → 0xFFFF = 0xFFFF) ∧
     (State.reset.cfg.fx1eLimit = .addr12 → 0xFFFF = 0x0FFF)) ∧
    (((reconfigured State.reset ({ · with fx1eLimit := .addr12 })).cfg.fx1eLimit = .reg16 → 0x0FFF = 0xFFFF) ∧
     ((reconfigured State.reset ({ · with fx1eLimit := .addr12 })).cfg.fx1eLimit = .addr12 → 0x0FFF = 0x0FFF)) := by
  decide

/-- The clauses of the sum at the limit and one above it, under both rules for no overflow. -/
theorem witness_AddToIndexSetsVf_clauses :
    (0xFFFF : Word).toNat + (0x01 : Byte).toNat > 0xFFFF ∧ (0xFFFE : Word).toNat + (0x01 : Byte).toNat ≤ 0xFFFF ∧
    State.reset.cfg.fx1eNoOverflow = .clear ∧
    (reconfigured State.reset ({ · with fx1eNoOverflow := .keep })).cfg.fx1eNoOverflow = .keep := by decide

/-- Three digits apart, a byte beside them, and under `clamp` the highest I where they are apart (0xFFD), the
lowest where two meet (0xFFE) and the lowest where all three meet (0xFFF). -/
theorem witness_BcdStoresTheDigits :
    ea State.reset.cfg 0x300 ≠ ea State.reset.cfg 0x301 ∧ ea State.reset.cfg 0x300 ≠ ea State.reset.cfg 0x302 ∧
    ea State.reset.cfg 0x301 ≠ ea State.reset.cfg 0x302 ∧ 0x303 ≠ ea State.reset.cfg 0x302 ∧
    ea clampReset.cfg 0xFFD ≠ ea clampReset.cfg 0xFFE ∧ ea clampReset.cfg 0xFFE ≠ ea clampReset.cfg 0xFFF ∧
    ea clampReset.cfg 0xFFF = ea clampReset.cfg 0x1000 ∧ ea clampReset.cfg 0xFFF = ea clampReset.cfg 0x1001 := by
  decide

/-- The last register of each range, the last stored where addresses meet, and a byte outside. -/
theorem witness_StoreRegistersWritesTheRange :
    InRange State.reset.cfg 15 15 ∧
    ¬ InRange (reconfigured State.reset ({ · with loadStoreRange := .exclusive })).cfg 15 15 ∧
    InRange (reconfigured State.reset ({ · with loadStoreRange := .exclusive })).cfg 15 14 ∧
    (∀ k' : Reg, (15 : Reg) < k' → ea State.reset.cfg (0xFFF + k'.val) ≠ ea State.reset.cfg (0xFFF + 15)) ∧
    (∀ k : Reg, ea State.reset.cfg (0x400 + k.val) ≠ 0x410) :=
  ⟨Nat.le_refl 15, Nat.lt_irrefl 15, (by decide : 14 < 15), by decide, by decide⟩

theorem witness_LoadRegistersReadsTheRange : InRange State.reset.cfg 0 0 ∧
    ¬ InRange (reconfigured State.reset ({ · with loadStoreRange := .exclusive })).cfg 0 0 :=
  ⟨Nat.le_refl 0, Nat.lt_irrefl 0⟩

/-- The lookup's clauses: V[x] = 15, and V[x] = 16 under each policy. -/
theorem witness_KeySkipsReadTheKeyTable :
    (15 : Key).val = (0x0F : Byte).toNat ∧ 15 < (0x10 : Byte).toNat ∧ (0 : Key).val = (0x10 : Byte).toNat % 16 ∧
    (reconfigured State.reset ({ · with keyIndexPolicy := .lowNibble })).cfg.keyIndexPolicy = .lowNibble ∧
    (reconfigured State.reset ({ · with keyIndexPolicy := .notPressed })).cfg.keyIndexPolicy = .notPressed := by decide

/-- No key, and keys 0 and 15. -/
theorem witness_KeyWaitRepeatsOrTakesAKey :
    (∀ k : Key, State.reset.key[k.val] = false) ∧ (State.reset.setKey 0 true).key[(0 : Key).val] = true ∧
    (State.reset.setKey 15 true).key[(15 : Key).val] = true ∧
    (reconfigured State.reset ({ · with keyWaitSelect := .lowest })).cfg.keyWaitSelect = .lowest := by decide

/-- The step of FX15, a step that takes ST from 1 to 0, and VK16: a step that starts with ST = 0 and writes 1. -/
theorem witness_EveryStepCountsTheTimersDown :
    (∃ t, step ((start 0xF015).setV 0 3) = .next t ∧ dtBeforeUpdate ((start 0xF015).setV 0 3) = 3) ∧
    (∃ t, step { start 0x6000 with st := 1 } = .next t ∧ stBeforeUpdate { start 0x6000 with st := 1 } = 1) ∧
    (∃ t, step ((start 0xF018).setV 0 1) = .next t ∧ ((start 0xF018).setV 0 1).st = 0 ∧
      stBeforeUpdate ((start 0xF018).setV 0 1) = 1 ∧ t.out.soundStop = true) :=
  ⟨⟨_, rfl, by decide⟩, ⟨_, rfl, by decide⟩, ⟨_, rfl, rfl, by decide, by decide⟩⟩

/-- One step that is neither FX15 nor FX18. -/
theorem witness_TimersCountSteps :
    (∃ t, runSteps 1 { start 0x6000 with dt := 5, st := 5 } = .next t) ∧
    (∀ j u x, j < 1 → runSteps j { start 0x6000 with dt := 5, st := 5 } = .next u →
      decodeWord u.fetch ≠ .ok (.ldDt x) ∧ decodeWord u.fetch ≠ .ok (.ldSt x)) := by
  refine ⟨⟨_, rfl⟩, fun j u x hj h => ?_⟩
  obtain rfl : j = 0 := by omega
  cases h
  have hd : decodeWord { start 0x6000 with dt := 5, st := 5 }.fetch = .ok (.ldImm 0 0) := rfl
  rw [hd]
  exact ⟨(by intro h; cases h), (by intro h; cases h)⟩

/-- FX15 and then FX07: the words F015 and F107 (R145 with n = 0). -/
def delayStart : State := ((start 0xF015).setV 0 3).writeMem 0x202 0xF1 |>.writeMem 0x203 0x07

theorem witness_DelayTimerReadsTheWriteLessTheSteps :
    decodeWord delayStart.fetch = .ok (.ldDt 0) ∧
    ∃ t w, step delayStart = .next t ∧ runSteps 0 t = .next t ∧ decodeWord t.fetch = .ok (.ldVDt 1) ∧
      step t = .next w ∧ w.getV 1 = 2 := ⟨rfl, _, _, rfl, rfl, rfl, rfl, by decide⟩

/-- The boundary v = 1, j = 0: the event comes in the step of the FX18. -/
theorem witness_SoundLastsAsWritten :
    decodeWord ((start 0xF018).setV 0 1).fetch = .ok (.ldSt 0) ∧ (((start 0xF018).setV 0 1).getV 0).toNat = 1 ∧
    ∃ t, step ((start 0xF018).setV 0 1) = .next t ∧ runSteps 0 t = .next t ∧ t.out.soundStop = true :=
  ⟨rfl, by decide, _, rfl, rfl, by decide⟩

/-- Inside the range, v = 2 and j = 1: the event comes one step after the FX18. -/
theorem witness_SoundLastsAsWritten_later :
    decodeWord ((start 0xF018).setV 0 2).fetch = .ok (.ldSt 0) ∧ (((start 0xF018).setV 0 2).getV 0).toNat = 2 ∧
    ∃ t u, step ((start 0xF018).setV 0 2) = .next t ∧ decodeWord t.fetch = .ok (.sys 0) ∧
      runSteps 1 t = .next u ∧ u.out.soundStop = true :=
  ⟨rfl, by decide, _, _, rfl, rfl, rfl, by decide⟩

theorem witness_OnlyThreeInstructionsWriteI :
    ∃ t, step (start 0xA2F0) = .next t ∧ t.regI ≠ (start 0xA2F0).regI := ⟨_, rfl, by decide⟩

theorem witness_OnlyStoresWriteMemory :
    (∃ t, step { (start 0xF033).setV 0 9 with regI := 0x300 } = .next t ∧
      t.byteAt 0x302 ≠ { (start 0xF033).setV 0 9 with regI := 0x300 }.byteAt 0x302) ∧
    (∃ t, step { (start 0xF055).setV 0 9 with regI := 0x300 } = .next t ∧
      t.byteAt 0x300 ≠ { (start 0xF055).setV 0 9 with regI := 0x300 }.byteAt 0x300) :=
  ⟨⟨_, rfl, by decide⟩, ⟨_, rfl, by decide⟩⟩

theorem witness_OnlyCallAndRetTouchTheStack :
    (∃ t, step (start 0x2300) = .next t ∧ t.stack[(0 : Fin 16).val] ≠ (start 0x2300).stack[(0 : Fin 16).val] ∧
      t.sp ≠ (start 0x2300).sp) ∧
    (∃ t, step { start 0x00EE with sp := 1 } = .next t ∧ t.sp ≠ { start 0x00EE with sp := 1 }.sp) :=
  ⟨⟨_, rfl, by decide, by decide⟩, ⟨_, rfl, by decide⟩⟩

/-- A change of a pixel, each display instruction where it changes no pixel, and a flag already set. -/
theorem witness_OnlyDisplayInstructionsTouchTheScreen :
    (∃ t, step { start 0x00E0 with fb := [(0, 1)] } = .next t ∧
      t.fbByte 0 ≠ { start 0x00E0 with fb := [(0, 1)] }.fbByte 0) ∧
    (∃ t, step (start 0x00E0) = .next t ∧ decodeWord (start 0x00E0).fetch = .ok .cls ∧
      (start 0x00E0).fb = [] ∧ (start 0x00E0).drawFlag = false) ∧
    (∃ t, step (start 0xD010) = .next t ∧ decodeWord (start 0xD010).fetch = .ok (.drw 0 1 0) ∧
      (start 0xD010).drawFlag = false) ∧
    (∃ t, step { start 0x6000 with drawFlag := true } = .next t ∧ { start 0x6000 with drawFlag := true }.drawFlag = true) :=
  ⟨⟨_, rfl, by decide⟩, ⟨_, rfl, rfl, rfl, rfl⟩, ⟨_, rfl, rfl, rfl⟩, ⟨_, rfl, rfl⟩⟩

theorem witness_OnlyTheseWriteVf :
    ∃ t, step (((start 0x8124).setV 1 0xFF).setV 2 0x01) = .next t ∧
      t.getV vf ≠ (((start 0x8124).setV 1 0xFF).setV 2 0x01).getV vf := ⟨_, rfl, by decide⟩

theorem witness_NoStepWritesKeysParametersOrSeed : ∃ t, step ((start 0xF20A).setKey 3 true) = .next t := ⟨_, rfl⟩

theorem witness_AStepRaisesAtMostOneRecord :
    (∃ t, step (start 0xFFFF) = .next t ∧ Diag.illegalInstruction 0x200 0xFFFF ∈ t.out.diag) ∧
    (∃ t, step { start 0x2300 with sp := 16 } = .next t ∧ Diag.stackOverflow 0x200 0x2300 ∈ t.out.diag) ∧
    (∃ t, step (start 0x00EE) = .next t ∧ Diag.stackUnderflow 0x200 0x00EE ∈ t.out.diag) ∧
    (∃ t, step (start 0x6000) = .next t ∧ t.out.diag = []) :=
  ⟨⟨_, rfl, by decide⟩, ⟨_, rfl, by decide⟩, ⟨_, rfl, by decide⟩, ⟨_, rfl, by decide⟩⟩

theorem witness_OutputsSoundTimerAndDrawFlagAreNotRead : ∃ t, step (start 0xD011) = .next t := ⟨_, rfl⟩

/-- VC7: the word 1200 at 0x200. -/
theorem witness_AnIdleLoopOnlyCountsTimers : (start 0x1200).Idle := ⟨0x200, by decide, by decide⟩

/-- The shortest image and the longest. -/
theorem witness_LoadCopiesTheImage :
    ([] : List Byte).length ≤ 0xE00 ∧ (List.replicate 0xE00 (0x12 : Byte)).length ≤ 0xE00 := by
  simp only [List.length_replicate, List.length_nil]
  decide

/-- R37: a key press reaches that entry alone, and clearDrawFlag the flag. -/
theorem test_host_inputs :
    seen (fun t => (t.key[7], t.key[6], t.drawFlag)) (hostAct (.setKey 7 true) { State.reset with drawFlag := true }) =
      some (true, false, true) ∧
    seen (fun t => t.drawFlag) (hostAct .clearDrawFlag { State.reset with drawFlag := true }) = some false := by decide

/-- Another key at each end of the table. -/
theorem witness_HostInputsWriteOnlyTheirField : (15 : Key) ≠ 0 ∧ (0 : Key) ≠ 15 := by decide

/-- The shortest image of two bytes and the longest. -/
theorem witness_BootStartsAtTheImage :
    ([0x12, 0x00] : List Byte).length ≤ 0xE00 ∧
    (0x12 :: 0x00 :: List.replicate 0xDFE (0x12 : Byte)).length ≤ 0xE00 := by
  simp only [List.length_cons, List.length_nil, List.length_replicate]
  decide

/-- The shortest image that is too large. -/
theorem witness_LoadTooLargeChangesNothing : (List.replicate 0xE01 (0x12 : Byte)).length > 0xE00 := by
  rw [List.length_replicate]
  decide

end Sys2Proof.Tests
end

section
/-! PROOF. Family 00_scope: what no step writes, what no step reads, and the memory write. -/

namespace Sys2Proof.Machine

/-! ## A memory write (R12, R40, R48) -/

theorem ea_of_wrap {c : Config} (h : c.addrPolicy = .wrap) (a : Nat) : ea c a = a % 4096 := by
  simp [ea, h, memorySize]

theorem ea_of_clamp {c : Config} (h : c.addrPolicy = .clamp) (a : Nat) : ea c a = min a 4095 := by
  simp [ea, h, memorySize]

theorem State.byteAt_writeMem_same (s : State) (a : Nat) (b : Byte) :
    (s.writeMem a b).byteAt (ea s.cfg a) = b := by
  rw [State.byteAt_writeMem, if_pos rfl]

/-- Settles O14: each clause is the read after a write, through the index `ea` gives. -/
theorem memoryWriteChangesOnlyItsByte : Obligations.MemoryWriteChangesOnlyItsByte := by
  intro s a b
  refine ⟨fun hwrap => ?_, fun hclamp => ?_, fun k hk => ?_, fun a' => ?_⟩
  · rw [← ea_of_wrap hwrap, State.byteAt_writeMem_same]
  · rw [← ea_of_clamp hclamp, State.byteAt_writeMem_same]
  · rw [State.byteAt_writeMem, if_neg hk]
  · exact State.readMem_writeMem s a a' b

/-! ## The key table, the parameters and the seed (R8, R24, R28, R118) -/

/-- The key table, the parameters and the seed of the last reset are as before. -/
def SameHostFields (s t : State) : Prop := t.key = s.key ∧ t.cfg = s.cfg ∧ t.seed = s.seed

/-- No instruction's frame lists the key table, the parameters or the seed. -/
theorem ExecFrame.sameHostFields {i : Instr} {s t : State} (h : ExecFrame i s t) : SameHostFields s t := by
  unfold ExecFrame at h
  split at h <;>
    (rw [h]; exact ⟨rfl, rfl, rfl⟩)

theorem State.timerUpdate_sameHostFields (s : State) : SameHostFields s s.timerUpdate := by
  rw [State.timerUpdate_eq]
  exact ⟨rfl, rfl, rfl⟩

theorem SameHostFields.trans {s t u : State} (hst : SameHostFields s t) (htu : SameHostFields t u) :
    SameHostFields s u := by
  obtain ⟨hk, hc, hs⟩ := hst
  obtain ⟨hk', hc', hs'⟩ := htu
  exact ⟨hk'.trans hk, hc'.trans hc, hs'.trans hs⟩

/-- Settles O53: EXECUTE, the ILLEGAL rule and the timer update each keep the three fields. -/
theorem noStepWritesKeysParametersOrSeed : Obligations.NoStepWritesKeysParametersOrSeed := by
  intro s t h
  obtain ⟨i, u, -, hexec, rfl⟩ | ⟨e, -, rfl⟩ := step_cases h
  · exact (exec_frame hexec).sameHostFields.trans u.timerUpdate_sameHostFields
  · exact (s.beginTransaction.illegal s.fetch).timerUpdate_sameHostFields

/-! ## drawFlag, ST and the outputs are not read (R13, R23, R120, R133) -/

/-- `s` with another drawFlag and another ST, the two fields no instruction reads. The outputs need no
replacement here: the step clears them before EXECUTE. -/
def State.withUnread (s : State) (flag : Bool) (v : Byte) : State := { s with drawFlag := flag, st := v }

section
variable (s : State) (flag : Bool) (v : Byte)

@[simp] theorem State.withUnread_cfg : (s.withUnread flag v).cfg = s.cfg := rfl
@[simp] theorem State.withUnread_dt : (s.withUnread flag v).dt = s.dt := rfl
@[simp] theorem State.withUnread_pressedKeys : (s.withUnread flag v).pressedKeys = s.pressedKeys := rfl

/-! ### Every shared operation commutes with the replacement -/

theorem State.stackFault_withUnread :
    (s.withUnread flag v).stackFault = s.stackFault.withUnread flag v := by
  unfold State.stackFault
  rw [State.withUnread_cfg]
  split <;> rfl

theorem State.writeRF_withUnread (x : Reg) (r : Byte) (f : Bool) :
    (s.withUnread flag v).writeRF x r f = (s.writeRF x r f).withUnread flag v := by
  unfold State.writeRF
  rw [State.withUnread_cfg]
  split <;> rfl

theorem State.writeFx1eFlag_withUnread (t : Nat) :
    (s.withUnread flag v).writeFx1eFlag t = (s.writeFx1eFlag t).withUnread flag v := by
  unfold State.writeFx1eFlag
  rw [State.withUnread_cfg]
  split
  · rfl
  · split <;> rfl

theorem State.randomByte_withUnread :
    (s.withUnread flag v).randomByte = (s.randomByte.1, s.randomByte.2.withUnread flag v) := by
  unfold State.randomByte
  rw [State.withUnread_cfg]
  split <;> rfl

theorem State.pressed_withUnread (b : Byte) :
    (s.withUnread flag v).pressed b = ((s.pressed b).1, (s.pressed b).2.withUnread flag v) := by
  unfold State.pressed
  rw [State.withUnread_cfg]
  split
  · rfl
  · split <;> rfl

theorem State.selectKey_withUnread (k : Key) (ks : List Key) :
    (s.withUnread flag v).selectKey k ks =
      ((s.selectKey k ks).1, (s.selectKey k ks).2.withUnread flag v) := by
  unfold State.selectKey
  rw [State.withUnread_cfg]
  split <;> rfl

theorem State.togglePixel_withUnread (r c : Nat) :
    (s.withUnread flag v).togglePixel r c = (s.togglePixel r c).withUnread flag v := by
  unfold State.togglePixel
  by_cases hon : s.pixel r c = 1
  · have hon' : (s.withUnread flag v).pixel r c = 1 := hon
    simp only [hon, hon', if_true]
    rfl
  · have hoff : ¬ (s.withUnread flag v).pixel r c = 1 := hon
    simp only [hon, hoff, if_false]
    rfl

theorem State.toggleAll_withUnread (ps : List (Nat × Nat)) :
    (s.withUnread flag v).toggleAll ps = (s.toggleAll ps).withUnread flag v :=
  List.foldl_hom (State.withUnread · flag v) fun t p => (t.togglePixel_withUnread flag v p.1 p.2)

theorem State.drawSprite_withUnread (ox oy base n : Nat) :
    (s.withUnread flag v).drawSprite ox oy base n = (s.drawSprite ox oy base n).withUnread flag v := by
  rw [State.drawSprite_eq, State.drawSprite_eq]
  exact s.toggleAll_withUnread flag v _

theorem State.storeRange_withUnread (ks : List Reg) :
    (s.withUnread flag v).storeRange ks = (s.storeRange ks).withUnread flag v :=
  List.foldl_hom (State.withUnread · flag v) fun _ _ => rfl

theorem State.loadRange_withUnread (ks : List Reg) :
    (s.withUnread flag v).loadRange ks = (s.loadRange ks).withUnread flag v :=
  List.foldl_hom (State.withUnread · flag v) fun _ _ => rfl

end

/-! ### EXECUTE, the timer update and the step -/

section
variable {s t : State} (flag : Bool) (v : Byte)

theorem exec_ret_withUnread (h : exec .ret s = .next t) :
    exec .ret (s.withUnread flag v) = .next (t.withUnread flag v) := by
  by_cases h0 : s.sp.val = 0
  · rw [exec_ret_of_empty s h0] at h
    cases h
    rw [exec_ret_of_empty (s.withUnread flag v) h0, ← State.stackFault_withUnread]
    rfl
  · have hpos : 0 < s.sp.val := Nat.pos_of_ne_zero h0
    rw [exec_ret_of_some s hpos] at h
    cases h
    exact exec_ret_of_some (s.withUnread flag v) hpos

theorem exec_call_withUnread {nnn : Addr} (h : exec (.call nnn) s = .next t) :
    exec (.call nnn) (s.withUnread flag v) = .next (t.withUnread flag v) := by
  by_cases hroom : s.sp.val < 16
  · rw [exec_call_of_room nnn s hroom] at h
    cases h
    exact exec_call_of_room nnn (s.withUnread flag v) hroom
  · have hfull : s.sp.val = 16 := by omega
    rw [exec_call_of_full nnn s hfull] at h
    cases h
    rw [exec_call_of_full nnn (s.withUnread flag v) hfull, ← State.stackFault_withUnread]
    rfl

theorem exec_ldVKey_withUnread {x : Reg} (h : exec (.ldVKey x) s = .next t) :
    exec (.ldVKey x) (s.withUnread flag v) = .next (t.withUnread flag v) := by
  simp only [exec, execLdVKey, State.withUnread_pressedKeys, State.selectKey_withUnread] at h ⊢
  split at h <;> cases h <;> rfl

/-- An instruction that ends with the advance of PC: what comes before it decides. -/
theorem next_advance_withUnread {u : State} (h : u = t.withUnread flag v) :
    (Host.Outcome.next u.advance : Result) = .next (t.advance.withUnread flag v) := by
  rw [h]
  rfl

/-- EXECUTE from another drawFlag and ST answers the same state, but for drawFlag (which 00E0 and DXYN set)
and ST (which FX18 writes). -/
theorem exec_withUnread {i : Instr} (h : exec i s = .next t) :
    ∃ flag' v', exec i (s.withUnread flag v) = .next (t.withUnread flag' v') := by
  cases i
  case cls => cases h; exact ⟨true, v, rfl⟩
  case ldSt x => cases h; exact ⟨flag, s.getV x, rfl⟩
  case drw x y n =>
    cases h
    have hdraw := (s.setV vf 0).drawSprite_withUnread flag v (s.getV x).toNat (s.getV y).toNat
      s.regI.toNat n.toNat
    exact ⟨true, v, next_advance_withUnread true v (congrArg (State.setDrawFlag · true) hdraw)⟩
  all_goals refine ⟨flag, v, ?_⟩
  case ret => exact exec_ret_withUnread flag v h
  case call => exact exec_call_withUnread flag v h
  case ldVKey => exact exec_ldVKey_withUnread flag v h
  case skp | sknp =>
    cases h
    simp only [exec, execSkp, execSknp, State.pressed_withUnread]
    rfl
  case rnd =>
    cases h
    simp only [exec, execRnd, State.randomByte_withUnread]
    rfl
  all_goals cases h
  case addReg | subReg | subnReg | shrReg | shlReg =>
    exact next_advance_withUnread flag v (s.writeRF_withUnread flag v _ _ _)
  case addI x =>
    exact next_advance_withUnread flag v
      ((s.setI (s.regI + byteWord (s.getV x))).writeFx1eFlag_withUnread flag v _)
  case storeRegs => exact next_advance_withUnread flag v (s.storeRange_withUnread flag v _)
  case loadRegs => exact next_advance_withUnread flag v (s.loadRange_withUnread flag v _)
  all_goals rfl

end

/-- The next states agree on all but drawFlag, ST and the sound-stop event. -/
def SameButUnread (t u : State) : Prop :=
  u = { t with drawFlag := u.drawFlag, st := u.st, out := { t.out with soundStop := u.out.soundStop } }

/-- The sound timer's part of the timer update writes ST and the sound-stop event only. -/
theorem State.tickSt_eq (s : State) :
    s.tickSt = { s with st := s.tickSt.st, out := { s.out with soundStop := s.tickSt.out.soundStop } } := by
  unfold State.tickSt
  split
  · rfl
  · split <;> rfl

theorem State.tickDt_withUnread (s : State) (flag : Bool) (v : Byte) :
    (s.withUnread flag v).tickDt = s.tickDt.withUnread flag v := by
  unfold State.tickDt
  rw [State.withUnread_dt]
  split <;> rfl

theorem State.timerUpdate_withUnread (s : State) (flag : Bool) (v : Byte) :
    SameButUnread s.timerUpdate (s.withUnread flag v).timerUpdate := by
  unfold SameButUnread State.timerUpdate
  rw [State.tickDt_withUnread, State.tickSt_eq s.tickDt, State.tickSt_eq (s.tickDt.withUnread flag v)]
  rfl

/-- The converse of `step_cases`, for a decoded instruction. -/
theorem step_of_exec {s t : State} {i : Instr} (hd : decodeWord s.fetch = .ok i)
    (h : exec i s.beginTransaction = .next t) : step s = .next t.timerUpdate := by
  unfold step runStep
  rw [hd]
  exact congrArg finishStep h

/-- The converse of `step_cases`, for an ILLEGAL word. -/
theorem step_of_illegal {s : State} {e : DecodeError} (hd : decodeWord s.fetch = .error e) :
    step s = .next (s.beginTransaction.illegal s.fetch).timerUpdate := by
  unfold step runStep
  rw [hd]
  rfl

/-- Settles O55: the step clears the outputs before EXECUTE, EXECUTE reads neither drawFlag nor ST, and the
timer update reads ST for ST and the sound-stop event only. -/
theorem outputsSoundTimerAndDrawFlagAreNotRead : Obligations.OutputsSoundTimerAndDrawFlagAreNotRead := by
  intro s t flag v o h
  obtain ⟨i, r, hd, hexec, rfl⟩ | ⟨e, hd, rfl⟩ := step_cases h
  · obtain ⟨flag', v', hexec'⟩ := exec_withUnread flag v hexec
    exact ⟨_, step_of_exec hd hexec', r.timerUpdate_withUnread flag' v'⟩
  · exact ⟨_, step_of_illegal hd, (s.beginTransaction.illegal s.fetch).timerUpdate_withUnread flag v⟩

end Sys2Proof.Machine
end

section
/-! PROOF. Family 10_state: the invariant along steps and host histories, what a step can write of the
stack, the screen and VF, and the values of reset. -/

namespace Sys2Proof.Machine

/-! ## A step, seen by what the PC, the timers and the outputs do not show -/

/-- An observation that reads neither PC nor a timer nor the outputs is after a step what EXECUTE left it;
an ILLEGAL word leaves it as it was (R65, R69). -/
theorem step_observed {α : Type*} (f : State → α)
    (hf : ∀ (s : State) pc dt st out, f { s with pc := pc, dt := dt, st := st, out := out } = f s)
    {s t : State} (h : step s = .next t) :
    (∃ i u, decodeWord s.fetch = .ok i ∧ exec i s.beginTransaction = .next u ∧ f t = f u) ∨
    ((∃ e, decodeWord s.fetch = .error e) ∧ f t = f s) := by
  have htimer : ∀ u : State, f u.timerUpdate = f u := by
    intro u
    rw [State.timerUpdate_eq]
    exact hf u _ _ _ _
  obtain ⟨i, u, hd, hexec, rfl⟩ | ⟨e, hd, rfl⟩ := step_cases h
  · exact .inl ⟨i, u, hd, hexec, htimer u⟩
  · exact .inr ⟨⟨e, hd⟩, (htimer _).trans (hf s _ s.dt s.st _)⟩

/-- No instruction stops the core (R119). -/
theorem exec_total (i : Instr) (s : State) : ∃ t, exec i s = .next t := by
  cases i
  case ret =>
    by_cases h0 : s.sp.val = 0
    · exact ⟨_, exec_ret_of_empty s h0⟩
    · exact ⟨_, exec_ret_of_some s (Nat.pos_of_ne_zero h0)⟩
  case call nnn =>
    by_cases hroom : s.sp.val < 16
    · exact ⟨_, exec_call_of_room nnn s hroom⟩
    · exact ⟨_, exec_call_of_full nnn s (by omega)⟩
  case ldVKey x =>
    simp only [exec, execLdVKey]
    split <;> exact ⟨_, rfl⟩
  all_goals exact ⟨_, rfl⟩

/-- No word stops the core (R119). -/
theorem step_total (s : State) : ∃ t, step s = .next t := by
  cases hd : decodeWord s.fetch with
  | ok i =>
    obtain ⟨u, hexec⟩ := exec_total i s.beginTransaction
    exact ⟨_, step_of_exec hd hexec⟩
  | error e => exact ⟨_, step_of_illegal hd⟩

/-! ## The invariant (R32) -/

theorem State.inv_resetWith (c : Config) (seed : Int) : (State.resetWith c seed).Inv :=
  ⟨Memory.wf_nil _ _, Memory.wf_nil _ _, fun _ hp => absurd hp List.not_mem_nil⟩

theorem State.inv_clearFb {s : State} (h : s.Inv) : s.clearFb.Inv :=
  ⟨h.1, Memory.wf_nil _ _, fun _ hp => absurd hp List.not_mem_nil⟩

theorem State.inv_toggleAll {ps : List (Nat × Nat)} {s : State} (h : s.Inv)
    (hps : ∀ p ∈ ps, p.1 < screenRows ∧ p.2 < screenColumns) : (s.toggleAll ps).Inv := by
  induction ps generalizing s with
  | nil => exact h
  | cons p ps ih =>
    obtain ⟨hrow, hcol⟩ := hps p List.mem_cons_self
    exact ih (State.inv_togglePixel h hrow hcol) fun q hq => hps q (List.mem_cons_of_mem _ hq)

/-- Drawing stays on the screen, since each coordinate wraps (R73). -/
theorem State.inv_drawSprite {s : State} (h : s.Inv) (ox oy base n : Nat) :
    (s.drawSprite ox oy base n).Inv := by
  rw [State.drawSprite_eq]
  refine State.inv_toggleAll h fun p hp => ?_
  obtain ⟨i, -, j, -, hrow, hcol, -⟩ := (s.mem_spriteTargets ox oy base n p.1 p.2).1 hp
  rw [hrow, hcol]
  exact ⟨Nat.mod_lt _ (by decide), Nat.mod_lt _ (by decide)⟩

theorem State.inv_storeRange {ks : List Reg} {s : State} (h : s.Inv) : (s.storeRange ks).Inv := by
  induction ks generalizing s with
  | nil => exact h
  | cons k ks ih => exact ih (State.inv_writeMem h _ _)

/-- EXECUTE keeps the invariant: four instructions write a byte store, and by its frame no other does. -/
theorem exec_inv {i : Instr} {s t : State} (hs : s.Inv) (h : exec i s = .next t) : t.Inv := by
  have hframe := exec_frame h
  cases i
  case cls =>
    cases h
    exact State.inv_congr (State.inv_clearFb hs) rfl rfl rfl
  case drw x y n =>
    cases h
    have hclear : (s.setV vf 0).Inv := State.inv_congr hs rfl rfl rfl
    exact State.inv_congr (State.inv_drawSprite hclear _ _ _ _) rfl rfl rfl
  case ldB x =>
    cases h
    exact State.inv_congr (State.inv_writeMem (State.inv_writeMem (State.inv_writeMem hs _ _) _ _) _ _)
      rfl rfl rfl
  case storeRegs x =>
    cases h
    exact State.inv_congr (State.inv_storeRange hs) rfl rfl rfl
  all_goals
    rw [hframe]
    exact State.inv_congr hs rfl rfl rfl

theorem step_inv {s t : State} (hs : s.Inv) (h : step s = .next t) : t.Inv := by
  obtain ⟨i, u, -, hexec, ht⟩ | ⟨-, ht⟩ := step_observed State.Inv (fun _ _ _ _ _ => rfl) h
  · have hbegin : s.beginTransaction.Inv := State.inv_congr hs rfl rfl rfl
    rw [ht]
    exact exec_inv hbegin hexec
  · rwa [ht]

/-- Settles O4: `step_inv`; SP is bounded by its type, and the invariant bounds what a pixel reads as. -/
theorem stepKeepsTheInvariant : Obligations.StepKeepsTheInvariant := by
  intro s t hs h
  have ht := step_inv hs h
  exact ⟨ht, Nat.le_of_lt_succ t.sp.isLt, State.fbByte_binary ht⟩

/-- The copy loop of a load writes memory only (R139). -/
theorem State.copyImage_eq (bs : List Byte) (s : State) (base : Nat) :
    s.copyImage base bs = { s with mem := (s.copyImage base bs).mem } := by
  induction bs generalizing s base with
  | nil => rfl
  | cons b bs ih =>
    rw [State.copyImage, ih]
    rfl

theorem State.inv_copyImage {bs : List Byte} {s : State} (h : s.Inv) (base : Nat) :
    (s.copyImage base bs).Inv := by
  induction bs generalizing s base with
  | nil => exact h
  | cons b bs ih => exact ih (State.inv_writeMem h _ _) _

theorem State.inv_hostLoad {s : State} (h : s.Inv) (image : List Byte) : (s.hostLoad image).Inv := by
  have hbegin : s.beginTransaction.Inv := State.inv_congr h rfl rfl rfl
  unfold State.hostLoad
  split
  · exact State.inv_congr (State.inv_copyImage hbegin _) rfl rfl rfl
  · exact State.inv_congr hbegin rfl rfl rfl

@[simp] theorem State.hostLoad_cfg (s : State) (image : List Byte) : (s.hostLoad image).cfg = s.cfg := by
  unfold State.hostLoad
  split
  · rw [State.copyImage_eq]
    rfl
  · rfl

/-- Each host action answers a next state that keeps the invariant and the parameters (R8, R32, R119). -/
theorem hostAct_inv (a : HostAction) {s : State} (hs : s.Inv) :
    ∃ t, hostAct a s = .next t ∧ t.Inv ∧ t.cfg = s.cfg := by
  cases a with
  | reset seed => exact ⟨_, rfl, State.inv_congr (State.inv_resetWith s.cfg seed) rfl rfl rfl, rfl⟩
  | load image => exact ⟨_, rfl, State.inv_hostLoad hs image, s.hostLoad_cfg image⟩
  | step =>
    obtain ⟨t, h⟩ := step_total s
    obtain ⟨-, hcfg, -⟩ := noStepWritesKeysParametersOrSeed s t h
    exact ⟨t, h, step_inv hs h, hcfg⟩
  | setKey k down => exact ⟨_, rfl, State.inv_congr hs rfl rfl rfl, rfl⟩
  | clearDrawFlag => exact ⟨_, rfl, State.inv_congr hs rfl rfl rfl, rfl⟩

/-- Settles O5, by induction on the list of host actions. -/
theorem hostHistoriesKeepTheInvariant : Obligations.HostHistoriesKeepTheInvariant := by
  intro as
  induction as with
  | nil => exact fun s hs => ⟨s, rfl, hs, rfl⟩
  | cons a as ih =>
    intro s hs
    obtain ⟨u, hact, hu, hcu⟩ := hostAct_inv a hs
    obtain ⟨t, hrun, ht, hct⟩ := ih u hu
    refine ⟨t, ?_, ht, hct.trans hcu⟩
    rw [runHost, hact]
    exact hrun

/-! ## The call stack (R20, R31) -/

/-- EXECUTE keeps the stack, or is a call that pushes PC, or is a return that pops. -/
theorem exec_stack {i : Instr} {s t : State} (h : exec i s = .next t) :
    SameStack s t ∨
    (∃ nnn, i = .call nnn ∧ t.sp.val = s.sp.val + 1 ∧
      ∃ hroom : s.sp.val < 16, t.stack = s.stack.set s.sp.val s.pc) ∨
    (i = .ret ∧ s.sp.val = t.sp.val + 1 ∧ t.stack = s.stack) := by
  have hframe := exec_frame h
  cases i
  case ret =>
    by_cases h0 : s.sp.val = 0
    · rw [exec_ret_of_empty s h0, State.stackFault_eq] at h
      cases h
      exact .inl ⟨rfl, rfl⟩
    · rw [exec_ret_of_some s (Nat.pos_of_ne_zero h0)] at h
      cases h
      exact .inr (.inr ⟨rfl, (Nat.sub_one_add_one h0).symm, rfl⟩)
  case call nnn =>
    by_cases hroom : s.sp.val < 16
    · rw [exec_call_of_room nnn s hroom] at h
      cases h
      exact .inr (.inl ⟨nnn, rfl, rfl, hroom, rfl⟩)
    · rw [exec_call_of_full nnn s (by omega), State.stackFault_eq] at h
      cases h
      exact .inl ⟨rfl, rfl⟩
  all_goals
    rw [hframe]
    exact .inl ⟨rfl, rfl⟩

/-- Settles O50: EXECUTE's three cases for the stack; a call writes slot SP alone. -/
theorem onlyCallAndRetTouchTheStack : Obligations.OnlyCallAndRetTouchTheStack := by
  intro s t h
  obtain ⟨i, u, hd, hexec, ht⟩ | ⟨-, ht⟩ :=
    step_observed (fun s => (s.stack, s.sp)) (fun _ _ _ _ _ => rfl) h
  all_goals
    obtain ⟨hstack, hsp⟩ := Prod.mk.inj ht
    rw [hstack, hsp]
  · obtain ⟨hsp', hstack'⟩ | ⟨nnn, rfl, hsp', hroom, hstack'⟩ | ⟨rfl, hsp', hstack'⟩ :=
      exec_stack hexec
    · rw [hsp', hstack']
      exact ⟨fun ⟨k, hk⟩ => absurd rfl hk, fun hne => absurd rfl hne⟩
    · refine ⟨fun _ => ⟨nnn, hd, fun k hk => ?_⟩, fun _ => .inl ⟨nnn, hd, hsp'⟩⟩
      simp only [hstack']
      exact Vector.getElem_set_ne _ _ (Ne.symm hk)
    · refine ⟨fun ⟨k, hk⟩ => absurd ?_ hk, fun _ => .inr ⟨hd, Nat.eq_sub_of_add_eq hsp'.symm⟩⟩
      rw [hstack']
      rfl
  · exact ⟨fun ⟨k, hk⟩ => absurd rfl hk, fun hne => absurd rfl hne⟩

/-! ## The screen (R25, R26, R133) -/

/-- 00E0 and DXYN. -/
def IsDisplay (i : Instr) : Prop := i = .cls ∨ ∃ x y n, i = .drw x y n

/-- A display instruction sets drawFlag; any other leaves the screen and drawFlag as they were. -/
theorem exec_screen {i : Instr} {s t : State} (h : exec i s = .next t) :
    (IsDisplay i ∧ t.drawFlag = true) ∨
    (¬ IsDisplay i ∧ t.fb = s.fb ∧ t.drawFlag = s.drawFlag) := by
  have hframe := exec_frame h
  cases i
  case cls =>
    rw [hframe]
    exact .inl ⟨.inl rfl, rfl⟩
  case drw x y n =>
    rw [hframe]
    exact .inl ⟨.inr ⟨x, y, n, rfl⟩, rfl⟩
  all_goals
    rw [hframe]
    exact .inr ⟨by simp [IsDisplay], rfl, rfl⟩

/-- A word decodes to a display instruction, said of the word and of the instruction. -/
theorem decodes_display_iff (w : Word) :
    (decodeWord w = .ok .cls ∨ ∃ x y n, decodeWord w = .ok (.drw x y n)) ↔
      ∃ i, decodeWord w = .ok i ∧ IsDisplay i := by
  constructor
  · rintro (h | ⟨x, y, n, h⟩)
    · exact ⟨_, h, .inl rfl⟩
    · exact ⟨_, h, .inr ⟨x, y, n, rfl⟩⟩
  · rintro ⟨i, h, rfl | ⟨x, y, n, rfl⟩⟩
    · exact .inl h
    · exact .inr ⟨x, y, n, h⟩

/-- A step whose word decodes to a display instruction sets drawFlag; any other step leaves the screen and
drawFlag as they were. -/
theorem step_screen {s t : State} (h : step s = .next t) :
    ((∃ i, decodeWord s.fetch = .ok i ∧ IsDisplay i) ∧ t.drawFlag = true) ∨
    ((¬ ∃ i, decodeWord s.fetch = .ok i ∧ IsDisplay i) ∧ t.fb = s.fb ∧ t.drawFlag = s.drawFlag) := by
  obtain ⟨i, u, hd, hexec, ht⟩ | ⟨⟨e, hd⟩, ht⟩ :=
    step_observed (fun s => (s.fb, s.drawFlag)) (fun _ _ _ _ _ => rfl) h
  all_goals
    obtain ⟨hfb, hflag⟩ := Prod.mk.inj ht
    rw [hd, hfb, hflag]
  · simpa using exec_screen hexec
  · simp

/-- Settles O51: `step_screen`, the display instructions named as the statement names them. -/
theorem onlyDisplayInstructionsTouchTheScreen : Obligations.OnlyDisplayInstructionsTouchTheScreen := by
  intro s t h
  simp only [decodes_display_iff]
  obtain ⟨hdisplay, hflag⟩ | ⟨hother, hfb, hflag⟩ := step_screen h
  · exact ⟨fun _ => hdisplay, fun _ => hflag, fun _ => hflag⟩
  · have hbyte : ∀ k, t.fbByte k = s.fbByte k := fun k => congrArg (Memory.read darkPixel · k) hfb
    refine ⟨?_, fun hdisplay => absurd hdisplay hother, hflag.trans⟩
    rintro (⟨k, hk⟩ | hne)
    · exact absurd (hbyte k) hk
    · exact absurd hflag hne

/-! ## VF (R16) -/

/-- The general registers an instruction can write. -/
def WritableReg : Instr → Reg → Prop
  | .ldImm x _ | .addImm x _ | .rnd x _ => OnlyReg x
  | .ldReg x _ | .orReg x _ | .andReg x _ | .xorReg x _ => OnlyReg x
  | .ldVDt x | .ldVKey x => OnlyReg x
  | .addReg x _ | .subReg x _ | .shrReg x _ | .subnReg x _ | .shlReg x _ => RegAndVf x
  | .drw _ _ _ | .addI _ => OnlyReg vf
  | .loadRegs x => fun r => r ≤ x
  | _ => NoReg

theorem le_of_mem_rangeRegs {c : Config} {x k : Reg} (h : k ∈ rangeRegs c x) : k ≤ x := by
  rw [mem_rangeRegs] at h
  split at h
  · exact h
  · exact le_of_lt h

theorem State.sameRegsBut_writeRF (s : State) (x : Reg) (r : Byte) (f : Bool) :
    SameRegsBut (RegAndVf x) s (s.writeRF x r f) :=
  fun _ hk => s.getV_other_writeRF r f (fun e => hk (.inl e)) fun e => hk (.inr e)

/-- Every general register an instruction cannot write is as before. -/
theorem exec_sameRegsBut {i : Instr} {s t : State} (h : exec i s = .next t) :
    SameRegsBut (WritableReg i) s t := by
  have hframe := exec_frame h
  cases i
  case addReg | subReg | shrReg | subnReg | shlReg =>
    cases h
    exact s.sameRegsBut_writeRF _ _ _
  case ldImm | addImm | ldReg | orReg | andReg | xorReg | ldVDt =>
    cases h
    exact fun r hr => s.getV_setV_ne _ hr
  case rnd =>
    cases h
    intro r hr
    rw [State.advance_getV, State.getV_setV_ne _ _ hr, State.randomByte_eq]
    rfl
  case ldVKey =>
    intro r hr
    simp only [exec, execLdVKey] at h
    split at h <;> cases h
    · rfl
    · rw [State.advance_getV, State.getV_setV_ne _ _ hr, State.selectKey_eq]
      rfl
  case drw x y n =>
    cases h
    intro r hr
    have hn : n.toNat ≤ screenRows := le_trans (Nat.le_of_lt n.isLt) (by decide)
    obtain ⟨-, -, -, -, -, hkept⟩ :=
      (s.setV vf 0).drawSprite_spec (s.getV x).toNat (s.getV y).toNat s.regI.toNat hn
    exact (hkept r hr).trans (s.getV_setV_ne 0 hr)
  case addI x =>
    cases h
    intro r hr
    have hr' : r ≠ vf := hr
    rw [State.advance_getV, State.getV_writeFx1eFlag]
    simp [hr']
  case loadRegs x =>
    cases h
    intro r hr
    rw [State.advance_getV, State.getV_loadRange, if_neg fun hmem => hr (le_of_mem_rangeRegs hmem)]
  all_goals
    rw [hframe]
    exact fun _ _ => rfl

/-- Settles O52: a changed VF is a register the decoded instruction can write. -/
theorem onlyTheseWriteVf : Obligations.OnlyTheseWriteVf := by
  intro s t h hne
  obtain ⟨i, u, hd, hexec, ht⟩ | ⟨-, ht⟩ := step_observed (State.getV · vf) (fun _ _ _ _ _ => rfl) h
  · have hw : WritableReg i vf := by_contra fun hn => hne (ht.trans (exec_sameRegsBut hexec vf hn))
    refine ⟨i, hd, ?_⟩
    cases i
    case addReg x y | subReg x y | shrReg x y | subnReg x y | shlReg x y => exact .inl ⟨x, y, by simp⟩
    case drw x y n => exact .inr (.inl ⟨x, y, n, rfl⟩)
    case addI x => exact .inr (.inr (.inl ⟨x, rfl⟩))
    case ldImm x nn | addImm x nn | rnd x nn =>
      obtain rfl : vf = x := hw
      exact .inr (.inr (.inr (.inl ⟨nn, by simp⟩)))
    case ldReg x y | orReg x y | andReg x y | xorReg x y =>
      obtain rfl : vf = x := hw
      exact .inr (.inr (.inr (.inr (.inl ⟨y, by simp⟩))))
    case ldVDt x | ldVKey x =>
      obtain rfl : vf = x := hw
      simp
    case loadRegs x =>
      obtain rfl : vf = x := le_antisymm hw (Fin.le_last x)
      simp
    all_goals exact hw.elim
  · exact absurd ht hne

/-! ## Reset and the host's inputs (R33, R35, R37) -/

theorem initialByte_of_lt_fontBase (c : Config) {k : Nat} (h : k < fontBase) : initialByte c k = 0 :=
  dif_neg fun ⟨hle, _⟩ => absurd hle (Nat.not_le_of_lt h)

theorem initialByte_fontBase_add (c : Config) {k : Nat} (h : k < 80) :
    initialByte c (fontBase + k) = c.font[k] := by
  simp [initialByte, h]

theorem initialByte_of_font_le (c : Config) {k : Nat} (h : fontBase + 80 ≤ k) : initialByte c k = 0 :=
  dif_neg fun ⟨_, hlt⟩ => by omega

/-- Memory after reset reads as its initial contents. -/
theorem State.byteAt_resetWith (c : Config) (seed : Int) (k : Nat) :
    (State.resetWith c seed).byteAt k = initialByte c k := rfl

theorem resetValues_resetWith (c : Config) (seed : Int) : ResetValues c seed (State.resetWith c seed) := by
  refine ⟨fun k hk => initialByte_of_lt_fontBase c hk, fun d j h => ?_,
    fun k hk => initialByte_of_font_le c hk, fun x => ?_, rfl, rfl, rfl, fun k => ?_, rfl, rfl, fun k => ?_,
    fun _ => rfl, rfl, rfl, rfl, rfl⟩
  · rw [State.byteAt_resetWith, Nat.add_assoc]
    exact initialByte_fontBase_add c (by omega)
  all_goals exact Vector.getElem_replicate _

/-- Settles O1: a host reset is `resetWith` but for the draw number, which `ResetValues` does not read. -/
theorem resetLeavesTheStatedValues : Obligations.ResetLeavesTheStatedValues :=
  ⟨⟨defaultConfig, defaultSeed, resetValues_resetWith _ _⟩,
    fun s seed => ⟨resetValues_resetWith s.cfg seed, rfl⟩⟩

/-- Settles O3: both byte stores are empty after reset. -/
theorem invariantHoldsAtReset : Obligations.InvariantHoldsAtReset :=
  ⟨State.inv_resetWith _ _, State.inv_resetWith⟩

/-- Settles O60: each input is the update of its one field. -/
theorem hostInputsWriteOnlyTheirField : Obligations.HostInputsWriteOnlyTheirField := by
  intro s k down
  refine ⟨⟨s.setKey k down, rfl, ?_, fun j hj => ?_, rfl⟩, ⟨s.setDrawFlag false, rfl, rfl, rfl⟩⟩
  · exact Vector.getElem_set_self _
  · exact Vector.getElem_set_ne k.isLt j.isLt (Fin.val_ne_of_ne hj.symm)

end Sys2Proof.Machine
end

section
/-! PROOF. Family 20_memory: the bytes a step can write, and the word laid where the next fetch reads. -/

namespace Sys2Proof.Machine

/-! ## The bytes an instruction can write (R47, R48) -/

theorem mem_rangeRegs_iff_inRange (c : Config) (x k : Reg) : k ∈ rangeRegs c x ↔ InRange c x k :=
  mem_rangeRegs c x k

/-- The memory bytes an instruction can write from `s`: R47's table for the instructions that store. -/
def WritableByte (s : State) (k : Nat) : Instr → Prop
  | .ldB _ => ∃ j, j < 3 ∧ k = ea s.cfg (s.indexed j)
  | .storeRegs x => ∃ j : Reg, InRange s.cfg x j ∧ k = ea s.cfg (s.indexed j.val)
  | _ => False

/-- Every memory byte an instruction cannot write is as before. -/
theorem exec_byteAt {i : Instr} {s t : State} {k : Nat} (h : exec i s = .next t)
    (hk : ¬ WritableByte s k i) : t.byteAt k = s.byteAt k := by
  have hframe := exec_frame h
  cases i
  case ldB x =>
    cases h
    have hne : ∀ j, j < 3 → k ≠ ea s.cfg (s.indexed j) := fun j hj e => hk ⟨j, hj, e⟩
    simp [State.byteAt_writeMem, hne]
  case storeRegs x =>
    cases h
    rw [State.advance_byteAt]
    refine State.byteAt_storeRange_ne _ s k fun j hj e => hk ⟨j, ?_, e.symm⟩
    exact (mem_rangeRegs_iff_inRange s.cfg x j).1 hj
  all_goals
    rw [hframe]
    rfl

/-- Settles O49: a changed byte is one the decoded instruction can write, and two instructions store. -/
theorem onlyStoresWriteMemory : Obligations.OnlyStoresWriteMemory := by
  intro s t k h hne
  obtain ⟨i, u, hd, hexec, ht⟩ | ⟨-, ht⟩ := step_observed (State.byteAt · k) (fun _ _ _ _ _ => rfl) h
  · have hw : WritableByte s.beginTransaction k i := by
      by_contra hn
      have hbyte : u.byteAt k = s.beginTransaction.byteAt k := exec_byteAt hexec hn
      exact hne (ht.trans hbyte)
    cases i
    case ldB x => exact .inl ⟨x, hd, hw⟩
    case storeRegs x => exact .inr ⟨x, hd, hw⟩
    all_goals exact hw.elim
  · exact absurd ht hne

/-! ## The word at PC (R43, R53, R61) -/

theorem highByte_append_lowByte (w : Word) : highByte w ++ lowByte w = w :=
  (BitVec.extractLsb'_append_extractLsb'_eq_extractLsb' rfl).trans BitVec.extractLsb'_eq_self

/-- The fetch reads back the word laid at PC, since the low byte does not fall on the high byte. -/
theorem State.fetch_placeWord {s : State} (h : ea s.cfg s.pc.toNat ≠ ea s.cfg (s.pc.toNat + 1)) (w : Word) :
    (s.placeWord w).fetch = w := by
  have hhigh : (s.placeWord w).readMem s.pc.toNat = highByte w := by
    rw [State.placeWord, State.readMem_writeMem, State.writeMem_cfg, if_neg h, State.readMem_writeMem,
      if_pos rfl]
  have hlow : (s.placeWord w).readMem (s.pc.toNat + 1) = lowByte w := by
    rw [State.placeWord, State.readMem_writeMem, if_pos rfl]
  calc (s.placeWord w).fetch
      = (s.placeWord w).readMem s.pc.toNat ++ (s.placeWord w).readMem (s.pc.toNat + 1) := rfl
    _ = highByte w ++ lowByte w := by rw [hhigh, hlow]
    _ = w := highByte_append_lowByte w

/-- Reading the table's bits and decoding their 16-bit word are the same. -/
theorem decodeTableWord_eq_some_iff (nbits w : Nat) (i : Instr) :
    decodeTableWord nbits w = some i ↔ decodeWord (tableWord nbits w) = .ok i := by
  simp only [decodeTableWord, decodeBytes, highByte_append_lowByte]
  cases decodeWord (tableWord nbits w) <;> simp

/-- Settles O15: the next fetch is the table word itself. -/
theorem storedInstructionIsFetchedNext : Obligations.StoredInstructionIsFetchedNext := by
  intro s nbits w h
  have hfetch : (s.withFetchWord nbits w).fetch = tableWord nbits w := State.fetch_placeWord h _
  rw [hfetch]
  exact ⟨BitVec.toNat_ofNat _ _, decodeTableWord_eq_some_iff nbits w⟩

end Sys2Proof.Machine
end

section
/-! PROOF. Family 30_encoding: the opcode table is unambiguous but for class 0, decode and encode agree, the
words no row matches, the assembler lines, the fetch, and the step around EXECUTE. -/

namespace Sys2Proof

/-! ## First match in the opcode table (R62) -/

theorem OpcodeRow.hits_iff (w : Word) (r : OpcodeRow) : r.hits w = true ↔ w &&& r.mask = r.value := by
  simp [OpcodeRow.hits]

/-- Two rows one word matches agree on the bits both of them fix. -/
theorem OpcodeRow.value_and_mask_of_hits {w : Word} {r q : OpcodeRow} (hr : r.hits w = true)
    (hq : q.hits w = true) : r.value &&& q.mask = q.value &&& r.mask := by
  rw [OpcodeRow.hits_iff] at hr hq
  rw [← hr, ← hq, BitVec.and_assoc, BitVec.and_assoc, BitVec.and_comm r.mask]

/-- R62's table check over the pairs of rows: only 00E0 and 00EE agree with a later row, 0NNN, on the bits both
fix. -/
theorem opcodeRows_agree : ∀ j k : Fin opcodeRows.length, j < k →
    opcodeRows[j].value &&& opcodeRows[k].mask = opcodeRows[k].value &&& opcodeRows[j].mask →
    opcodeRows[j].mask = 0xFFFF ∧
      (opcodeRows[j].value = 0x00E0 ∧ j.val = 0 ∨ opcodeRows[j].value = 0x00EE ∧ j.val = 1) ∧ k.val = 2 := by
  decide

/-- Settles O10: two rows one word matches agree on the bits both fix, and the earlier of such a pair fixes
every bit. -/
theorem opcodeRowsOverlapOnlyInClassZero : Obligations.OpcodeRowsOverlapOnlyInClassZero := by
  intro w j k hjk hj hk
  obtain ⟨hmask, hvalue, hsys⟩ := opcodeRows_agree j k hjk (OpcodeRow.value_and_mask_of_hits hj hk)
  have hw : w = opcodeRows[j].value := by
    rw [← (OpcodeRow.hits_iff w _).1 hj, hmask]
    exact BitVec.and_allOnes.symm
  rw [hw]
  exact ⟨hvalue, hsys⟩

/-- The row that decides is one of the table, it matches, and it builds the instruction. -/
theorem exists_row_of_decodeWord {w : Word} {i : Instr} (h : decodeWord w = .ok i) :
    ∃ r ∈ opcodeRows, r.hits w = true ∧ r.build w = i := by
  unfold decodeWord at h
  split at h
  case h_1 r hfind => exact ⟨r, List.mem_of_find?_eq_some hfind, List.find?_some hfind, Except.ok.inj h⟩
  case h_2 => cases h

/-- A row decides when it matches and no earlier row does. -/
theorem decodeWord_of_first_row {w : Word} (k : Fin opcodeRows.length) (hk : opcodeRows[k].hits w = true)
    (hfirst : ∀ j < k, ¬ opcodeRows[j].hits w = true) : decodeWord w = .ok (opcodeRows[k].build w) := by
  have hfind : opcodeRows.find? (OpcodeRow.hits w) = some opcodeRows[k] := by
    refine List.find?_eq_some_iff_getElem.2 ⟨hk, k.val, k.isLt, rfl, fun j hj => ?_⟩
    simpa using hfirst ⟨j, hj.trans k.isLt⟩ hj
  unfold decodeWord
  rw [hfind]

theorem decodeWord_eq_error_iff (w : Word) :
    decodeWord w = .error (.illegalWord w) ↔ ∀ r ∈ opcodeRows, ¬ r.hits w = true := by
  rw [← List.find?_eq_none]
  unfold decodeWord
  split <;> simp [*]

/-! ## Decode of encode (R62, R63) -/

/-- Every instruction has a row that builds it back from its word: the lemmas of `Laws.Encoding`, put together. -/
theorem encoding_statement : ∀ i : Instr, Laws.Encoding.Statement i
  | .cls => Laws.Encoding.cls
  | .ret => Laws.Encoding.ret
  | .sys nnn => Laws.Encoding.sys nnn
  | .jp nnn => Laws.Encoding.jp nnn
  | .call nnn => Laws.Encoding.call nnn
  | .seImm x nn => Laws.Encoding.seImm x nn
  | .sneImm x nn => Laws.Encoding.sneImm x nn
  | .seReg x y => Laws.Encoding.seReg x y
  | .ldImm x nn => Laws.Encoding.ldImm x nn
  | .addImm x nn => Laws.Encoding.addImm x nn
  | .ldReg x y => Laws.Encoding.ldReg x y
  | .orReg x y => Laws.Encoding.orReg x y
  | .andReg x y => Laws.Encoding.andReg x y
  | .xorReg x y => Laws.Encoding.xorReg x y
  | .addReg x y => Laws.Encoding.addReg x y
  | .subReg x y => Laws.Encoding.subReg x y
  | .shrReg x y => Laws.Encoding.shrReg x y
  | .subnReg x y => Laws.Encoding.subnReg x y
  | .shlReg x y => Laws.Encoding.shlReg x y
  | .sneReg x y => Laws.Encoding.sneReg x y
  | .ldI nnn => Laws.Encoding.ldI nnn
  | .jpV0 nnn => Laws.Encoding.jpV0 nnn
  | .rnd x nn => Laws.Encoding.rnd x nn
  | .drw x y n => Laws.Encoding.drw x y n
  | .skp x => Laws.Encoding.skp x
  | .sknp x => Laws.Encoding.sknp x
  | .ldVDt x => Laws.Encoding.ldVDt x
  | .ldVKey x => Laws.Encoding.ldVKey x
  | .ldDt x => Laws.Encoding.ldDt x
  | .ldSt x => Laws.Encoding.ldSt x
  | .addI x => Laws.Encoding.addI x
  | .ldF x => Laws.Encoding.ldF x
  | .ldB x => Laws.Encoding.ldB x
  | .storeRegs x => Laws.Encoding.storeRegs x
  | .loadRegs x => Laws.Encoding.loadRegs x

/-- The words 00E0 and 00EE are of no well-formed 0NNN (R62, R79). -/
theorem encode_ne_of_wellFormed_sys {nnn : Addr} (h : (Instr.sys nnn).WellFormed) :
    encode (.sys nnn) ≠ 0x00E0 ∧ encode (.sys nnn) ≠ 0x00EE := by
  obtain ⟨hcls, hret⟩ := h
  have hnnn : (encode (.sys nnn)).extractLsb 11 0 = nnn := extract_nnn 0x0 nnn
  constructor
  · intro hw
    rw [hw] at hnnn
    exact hcls hnnn.symm
  · intro hw
    rw [hw] at hnnn
    exact hret hnnn.symm

/-- The row that builds a well-formed instruction is the first its word matches: with an earlier match the row
would be 0NNN and the word 0x00E0 or 0x00EE. -/
theorem decodeWord_encode {i : Instr} (h : i.WellFormed) : decodeWord (encode i) = .ok i := by
  obtain ⟨r, hr, hit, hbuild⟩ := encoding_statement i
  obtain ⟨k, hk, rfl⟩ := List.getElem_of_mem hr
  have hfirst : ∀ j < (⟨k, hk⟩ : Fin opcodeRows.length), ¬ opcodeRows[j].hits (encode i) = true := by
    intro j hj hearlier
    obtain ⟨hword, rfl⟩ := opcodeRowsOverlapOnlyInClassZero (encode i) j ⟨k, hk⟩ hj hearlier hit
    have hi : i = .sys (fieldNnn (encode i)) := hbuild.symm
    rw [hi] at h
    obtain ⟨hcls, hret⟩ := encode_ne_of_wellFormed_sys h
    rw [← hi] at hcls hret
    obtain ⟨hw, -⟩ | ⟨hw, -⟩ := hword
    · exact hcls hw
    · exact hret hw
  exact (decodeWord_of_first_row ⟨k, hk⟩ hit hfirst).trans (congrArg _ hbuild)

/-- Settles O7: `decodeWord_encode`, and the two bytes of a word put together are the word. -/
theorem decodeOfEncodeIsTheInstruction : Obligations.DecodeOfEncodeIsTheInstruction := by
  intro i rest h
  refine ⟨decodeWord_encode h, ?_⟩
  simp [encodeBytes, decodeBytes, Machine.highByte_append_lowByte, decodeWord_encode h]

/-! ## Encode of decode (R59, R63) -/

/-- A field the row's mask keeps whole is the row's in every word that matches it. -/
theorem extractLsb_of_hits {w m v : Word} {f : Word → Instr} (h : OpcodeRow.hits w ⟨m, v, f⟩ = true) (hi lo : Nat)
    (hmask : m.extractLsb hi lo = BitVec.allOnes _) : w.extractLsb hi lo = v.extractLsb hi lo := by
  have hv : w &&& m = v := (OpcodeRow.hits_iff w _).1 h
  rw [← hv, BitVec.extractLsb_and, hmask, BitVec.and_allOnes]

/-- The class nibble of a word, bits 15..12 (R58). -/
def classNibble (w : Word) : Nibble := w.extractLsb 15 12

/-! A word is its fields put together, in each of the ways the patterns of R63 divide it. -/

theorem classNibble_append_nnn (w : Word) : classNibble w ++ fieldNnn w = w :=
  (BitVec.extractLsb'_append_extractLsb'_eq_extractLsb' rfl).trans BitVec.extractLsb'_eq_self

theorem classNibble_append_x (w : Word) : classNibble w ++ regBits (fieldX w) = highByte w :=
  BitVec.extractLsb'_append_extractLsb'_eq_extractLsb' rfl

theorem classNibble_append_x_nn (w : Word) : classNibble w ++ regBits (fieldX w) ++ fieldNn w = w := by
  rw [classNibble_append_x]
  exact Machine.highByte_append_lowByte w

theorem classNibble_append_x_y_n (w : Word) :
    classNibble w ++ regBits (fieldX w) ++ regBits (fieldY w) ++ fieldN w = w := by
  have hy : highByte w ++ regBits (fieldY w) = w.extractLsb 15 4 :=
    BitVec.extractLsb'_append_extractLsb'_eq_extractLsb' rfl
  rw [classNibble_append_x, hy]
  exact (BitVec.extractLsb'_append_extractLsb'_eq_extractLsb' rfl).trans BitVec.extractLsb'_eq_self

/-- The row drops no bit of a word: the instruction it builds encodes as the word. -/
def OpcodeRow.Exact (r : OpcodeRow) : Prop := ∀ w, r.hits w = true → encode (r.build w) = w

/-! A row of each format is exact: the fields its mask fixes are the row's, and it builds the others from the
word. -/

section
variable {v : Word}

theorem OpcodeRow.Exact.of_word {i : Instr} (hi : encode i = v) : OpcodeRow.Exact ⟨0xFFFF, v, fun _ => i⟩ := by
  intro w h
  have hw : w &&& 0xFFFF = v := (OpcodeRow.hits_iff w _).1 h
  rw [hi, ← hw]
  exact BitVec.and_allOnes

theorem OpcodeRow.Exact.of_nnn {f : Addr → Instr} (hf : ∀ a, encode (f a) = classNibble v ++ a) :
    OpcodeRow.Exact ⟨0xF000, v, fun w => f (fieldNnn w)⟩ := by
  intro w h
  have hclass : classNibble w = classNibble v := extractLsb_of_hits h 15 12 (by decide)
  rw [hf, ← hclass, classNibble_append_nnn]

theorem OpcodeRow.Exact.of_x_nn {f : Reg → Byte → Instr}
    (hf : ∀ x b, encode (f x b) = classNibble v ++ regBits x ++ b) :
    OpcodeRow.Exact ⟨0xF000, v, fun w => f (fieldX w) (fieldNn w)⟩ := by
  intro w h
  have hclass : classNibble w = classNibble v := extractLsb_of_hits h 15 12 (by decide)
  rw [hf, ← hclass, classNibble_append_x_nn]

theorem OpcodeRow.Exact.of_x_y_n {f : Reg → Reg → Nibble → Instr}
    (hf : ∀ x y n, encode (f x y n) = classNibble v ++ regBits x ++ regBits y ++ n) :
    OpcodeRow.Exact ⟨0xF000, v, fun w => f (fieldX w) (fieldY w) (fieldN w)⟩ := by
  intro w h
  have hclass : classNibble w = classNibble v := extractLsb_of_hits h 15 12 (by decide)
  rw [hf, ← hclass, classNibble_append_x_y_n]

theorem OpcodeRow.Exact.of_x_y {f : Reg → Reg → Instr}
    (hf : ∀ x y, encode (f x y) = classNibble v ++ regBits x ++ regBits y ++ fieldN v) :
    OpcodeRow.Exact ⟨0xF00F, v, fun w => f (fieldX w) (fieldY w)⟩ := by
  intro w h
  have hclass : classNibble w = classNibble v := extractLsb_of_hits h 15 12 (by decide)
  have hn : fieldN w = fieldN v := extractLsb_of_hits h 3 0 (by decide)
  rw [hf, ← hclass, ← hn, classNibble_append_x_y_n]

theorem OpcodeRow.Exact.of_x {f : Reg → Instr} (hf : ∀ x, encode (f x) = classNibble v ++ regBits x ++ fieldNn v) :
    OpcodeRow.Exact ⟨0xF0FF, v, fun w => f (fieldX w)⟩ := by
  intro w h
  have hclass : classNibble w = classNibble v := extractLsb_of_hits h 15 12 (by decide)
  have hnn : fieldNn w = fieldNn v := extractLsb_of_hits h 7 0 (by decide)
  rw [hf, ← hclass, ← hnn, classNibble_append_x_nn]

end

theorem rowsControl_exact : ∀ r ∈ rowsControl, r.Exact := by
  simp only [rowsControl, List.forall_mem_cons]
  exact ⟨.of_word rfl, .of_word rfl, .of_nnn fun _ => rfl, .of_nnn fun _ => rfl, .of_nnn fun _ => rfl,
    .of_x_nn fun _ _ => rfl, .of_x_nn fun _ _ => rfl, .of_x_y fun _ _ => rfl, List.forall_mem_nil _⟩

theorem rowsImmediate_exact : ∀ r ∈ rowsImmediate, r.Exact := by
  simp only [rowsImmediate, List.forall_mem_cons]
  exact ⟨.of_x_nn fun _ _ => rfl, .of_x_nn fun _ _ => rfl, List.forall_mem_nil _⟩

theorem rowsRegister_exact : ∀ r ∈ rowsRegister, r.Exact := by
  simp only [rowsRegister, List.forall_mem_cons]
  refine ⟨?_, ?_, ?_, ?_, ?_, ?_, ?_, ?_, ?_, ?_, List.forall_mem_nil _⟩ <;>
    exact OpcodeRow.Exact.of_x_y fun _ _ => rfl

theorem rowsIndex_exact : ∀ r ∈ rowsIndex, r.Exact := by
  simp only [rowsIndex, List.forall_mem_cons]
  exact ⟨.of_nnn fun _ => rfl, .of_nnn fun _ => rfl, .of_x_nn fun _ _ => rfl,
    .of_x_y_n fun _ _ _ => rfl, List.forall_mem_nil _⟩

theorem rowsKeyTimer_exact : ∀ r ∈ rowsKeyTimer, r.Exact := by
  simp only [rowsKeyTimer, List.forall_mem_cons]
  refine ⟨?_, ?_, ?_, ?_, ?_, ?_, ?_, ?_, ?_, ?_, ?_, List.forall_mem_nil _⟩ <;>
    exact OpcodeRow.Exact.of_x fun _ => rfl

theorem opcodeRows_exact : ∀ r ∈ opcodeRows, r.Exact := by
  simp only [opcodeRows, List.forall_mem_append]
  exact ⟨⟨⟨⟨rowsControl_exact, rowsImmediate_exact⟩, rowsRegister_exact⟩, rowsIndex_exact⟩, rowsKeyTimer_exact⟩

/-- What a word decodes to is well-formed: the words of the two ill-formed instructions decode to 00E0 and
00EE. -/
theorem wellFormed_of_decodeWord_encode {i : Instr} (h : decodeWord (encode i) = .ok i) : i.WellFormed := by
  cases i
  case sys nnn =>
    constructor
    · rintro rfl
      exact nomatch h
    · rintro rfl
      exact nomatch h
  all_goals trivial

/-- Settles O8: the row that decides is exact. -/
theorem encodeOfDecodeIsTheWord : Obligations.EncodeOfDecodeIsTheWord := by
  intro w i h
  obtain ⟨r, hr, hit, hbuild⟩ := exists_row_of_decodeWord h
  have hw : encode i = w := by
    rw [← hbuild]
    exact opcodeRows_exact r hr w hit
  refine ⟨hw, wellFormed_of_decodeWord_encode ?_⟩
  rw [hw]
  exact h

/-- Settles O9, by running the decoder on each word. -/
theorem sampleWordsDecode : Obligations.SampleWordsDecode :=
  ⟨rfl, rfl, rfl, rfl, rfl, rfl, rfl, rfl, rfl, rfl, rfl⟩

/-! ## Illegal words (R64) -/

/-- Appending as arithmetic: the first word's bits stand above the second's. -/
theorem toNat_append_eq {m n : Nat} (x : BitVec m) (y : BitVec n) :
    (x ++ y).toNat = x.toNat * 2 ^ n + y.toNat := by
  rw [BitVec.toNat_append, ← Nat.shiftLeft_add_eq_or_of_lt y.isLt, Nat.shiftLeft_eq]

theorem classNibble_toNat (w : Word) : (classNibble w).toNat = w.toNat / 4096 := by
  have hw := w.isLt
  rw [classNibble, BitVec.extractLsb_toNat, Nat.shiftRight_eq_div_pow]
  omega

theorem fieldN_toNat (w : Word) : (fieldN w).toNat = w.toNat % 16 := BitVec.extractLsb_toNat ..

theorem fieldNn_toNat (w : Word) : (fieldNn w).toNat = w.toNat % 256 := BitVec.extractLsb_toNat ..

/-! What a match says of the word as a number, one lemma per mask of the table. -/

section
variable (w : Word) {v : Word} {f : Word → Instr}

theorem OpcodeRow.hits_word_iff : OpcodeRow.hits w ⟨0xFFFF, v, f⟩ = true ↔ w.toNat = v.toNat := by
  have hmask : w &&& 0xFFFF = w := BitVec.and_allOnes
  rw [OpcodeRow.hits_iff, hmask, BitVec.toNat_inj]

theorem OpcodeRow.hits_class_iff :
    OpcodeRow.hits w ⟨0xF000, v, f⟩ = true ↔ w.toNat / 4096 * 4096 = v.toNat := by
  have hmask : w &&& 0xF000 = classNibble w ++ 0#12 := by
    conv_lhs => rw [← classNibble_append_nnn w]
    exact mask_class_addr ..
  rw [OpcodeRow.hits_iff, hmask, ← BitVec.toNat_inj, toNat_append_eq, classNibble_toNat, BitVec.toNat_ofNat]
  norm_num

theorem OpcodeRow.hits_class_n_iff :
    OpcodeRow.hits w ⟨0xF00F, v, f⟩ = true ↔ w.toNat / 4096 * 4096 + w.toNat % 16 = v.toNat := by
  have hmask : w &&& 0xF00F = classNibble w ++ 0#8 ++ fieldN w := by
    conv_lhs => rw [← classNibble_append_x_y_n w]
    exact mask_function_nibble ..
  rw [OpcodeRow.hits_iff, hmask, ← BitVec.toNat_inj, toNat_append_eq, toNat_append_eq, classNibble_toNat, fieldN_toNat,
    BitVec.toNat_ofNat]
  norm_num [Nat.mul_assoc]

theorem OpcodeRow.hits_class_nn_iff :
    OpcodeRow.hits w ⟨0xF0FF, v, f⟩ = true ↔ w.toNat / 4096 * 4096 + w.toNat % 256 = v.toNat := by
  have hmask : w &&& 0xF0FF = classNibble w ++ 0#4 ++ fieldNn w := by
    conv_lhs => rw [← classNibble_append_x_nn w]
    exact mask_function_byte ..
  rw [OpcodeRow.hits_iff, hmask, ← BitVec.toNat_inj, toNat_append_eq, toNat_append_eq, classNibble_toNat, fieldNn_toNat,
    BitVec.toNat_ofNat]
  norm_num [Nat.mul_assoc]

end

/-! The words each part of the table misses. -/

theorem rowsControl_miss_iff (w : Word) : (∀ r ∈ rowsControl, ¬ r.hits w = true) ↔
    5 ≤ w.toNat / 4096 ∧ (w.toNat / 4096 = 5 → w.toNat % 16 ≠ 0) := by
  simp only [rowsControl, List.forall_mem_cons, OpcodeRow.hits_word_iff, OpcodeRow.hits_class_iff,
    OpcodeRow.hits_class_n_iff, BitVec.reduceToNat, List.not_mem_nil, false_imp_iff, implies_true, and_true]
  omega

theorem rowsImmediate_miss_iff (w : Word) : (∀ r ∈ rowsImmediate, ¬ r.hits w = true) ↔
    w.toNat / 4096 ≠ 6 ∧ w.toNat / 4096 ≠ 7 := by
  simp only [rowsImmediate, List.forall_mem_cons, OpcodeRow.hits_class_iff, BitVec.reduceToNat, List.not_mem_nil,
    false_imp_iff, implies_true, and_true]
  omega

theorem rowsRegister_miss_iff (w : Word) : (∀ r ∈ rowsRegister, ¬ r.hits w = true) ↔
    (w.toNat / 4096 = 8 → w.toNat % 16 ∈ [0x8, 0x9, 0xA, 0xB, 0xC, 0xD, 0xF]) ∧
    (w.toNat / 4096 = 9 → w.toNat % 16 ≠ 0) := by
  simp only [rowsRegister, List.forall_mem_cons, OpcodeRow.hits_class_n_iff, BitVec.reduceToNat]
  simp only [List.mem_cons, List.not_mem_nil, or_false, false_imp_iff, implies_true, and_true]
  omega

theorem rowsIndex_miss_iff (w : Word) : (∀ r ∈ rowsIndex, ¬ r.hits w = true) ↔
    w.toNat / 4096 < 10 ∨ 13 < w.toNat / 4096 := by
  simp only [rowsIndex, List.forall_mem_cons, OpcodeRow.hits_class_iff, BitVec.reduceToNat, List.not_mem_nil,
    false_imp_iff, implies_true, and_true]
  omega

theorem rowsKeyTimer_miss_iff (w : Word) : (∀ r ∈ rowsKeyTimer, ¬ r.hits w = true) ↔
    (w.toNat / 4096 = 14 → w.toNat % 256 ∉ [0x9E, 0xA1]) ∧
    (w.toNat / 4096 = 15 → w.toNat % 256 ∉ [0x07, 0x0A, 0x15, 0x18, 0x1E, 0x29, 0x33, 0x55, 0x65]) := by
  simp only [rowsKeyTimer, List.forall_mem_cons, OpcodeRow.hits_class_nn_iff, BitVec.reduceToNat]
  simp only [List.mem_cons, List.not_mem_nil, or_false, false_imp_iff, implies_true, and_true]
  omega

/-- Settles O11: for each class nibble, what the five parts of the table say of the words they miss. -/
theorem illegalWordsAreExactlyThese : Obligations.IllegalWordsAreExactlyThese := by
  intro w
  have hclass : w.toNat / 4096 < 16 := Nat.div_lt_of_lt_mul w.isLt
  rw [decodeWord_eq_error_iff]
  simp only [opcodeRows, List.forall_mem_append, rowsControl_miss_iff, rowsImmediate_miss_iff, rowsRegister_miss_iff,
    rowsIndex_miss_iff, rowsKeyTimer_miss_iff]
  generalize w.toNat / 4096 = c at *
  interval_cases c <;> simp

end Sys2Proof

namespace Sys2Proof.Machine

/-! ## Assembler lines (R67, R68) -/

/-- An instruction's operands are the form it stands in, and no instruction before it in that form has its
mnemonic. -/
theorem assembleLine_asmOf (i : Instr) : assembleLine (asmOf i) = some i := by
  cases i <;> rfl

theorem assemble_line_cons {l : AsmLine} {i : Instr} {rest : List AsmItem} {bs : List Byte}
    (hl : assembleLine l = some i) (hrest : assemble rest = some bs) :
    assemble (.line l :: rest) = some (encodeBytes i ++ bs) := by
  rw [assemble, hl, hrest]

/-- Settles O12: the line of each instruction, the one-operand shifts, and one line before a rest. -/
theorem linesAssembleToTheirWords : Obligations.LinesAssembleToTheirWords :=
  ⟨assembleLine_asmOf, fun _ => ⟨rfl, rfl⟩, fun _ _ _ _ hl hrest => assemble_line_cons hl hrest⟩

/-! ## The fetch (R61) -/

theorem State.fetch_toNat (s : State) :
    s.fetch.toNat = (s.byteAt (ea s.cfg s.pc.toNat)).toNat * 256 + (s.byteAt (ea s.cfg (s.pc.toNat + 1))).toNat :=
  toNat_append_eq ..

/-- Settles O13: the fetch as a number, with `ea` under each policy. -/
theorem fetchReadsTwoBytesBigEndian : Obligations.FetchReadsTwoBytesBigEndian := by
  intro s
  constructor
  · intro hwrap
    rw [s.fetch_toNat, ea_of_wrap hwrap, ea_of_wrap hwrap]
  · intro hclamp
    rw [s.fetch_toNat, ea_of_clamp hclamp, ea_of_clamp hclamp]

/-! ## The step (R65, R69) -/

/-- Settles O16: EXECUTE answers a next state, and the timer update is the equation of its three fields. -/
theorem stepRunsTheDecodedInstruction : Obligations.StepRunsTheDecodedInstruction := by
  intro s i hd
  have hbegin : { s with out := Outputs.none } = s.beginTransaction := rfl
  obtain ⟨t, hexec⟩ := exec_total i s.beginTransaction
  rw [step_of_exec hd hexec, hbegin, hexec, State.timerUpdate_eq, State.timerUpdate_dt, State.timerUpdate_st,
    State.timerUpdate_out]

theorem toNat_tick (b : Byte) : (if b = 0 then 0 else b - 1).toNat = b.toNat - 1 := by
  split
  · simp [*]
  · bv_omega

theorem State.timerUpdate_diag (s : State) : s.timerUpdate.out.diag = s.out.diag := by
  rw [State.timerUpdate_out]
  split <;> rfl

/-- Settles O17: the record and the advance are `State.illegal`'s, the rest the timer update's. -/
theorem illegalWordIsAReportedNoOp : Obligations.IllegalWordIsAReportedNoOp := by
  intro s e hd
  refine ⟨_, step_of_illegal hd, ?_, ?_, ?_, ?_, ?_⟩
  · exact State.timerUpdate_diag _
  · rw [State.timerUpdate_eq]
    rfl
  · rw [State.timerUpdate_dt]
    exact toNat_tick s.dt
  · rw [State.timerUpdate_st]
    exact toNat_tick s.st
  · rw [State.timerUpdate_eq]
    exact ⟨fun _ _ => rfl, rfl, ⟨fun _ => rfl, fun _ => rfl⟩, ⟨fun _ _ => rfl, rfl⟩,
      ⟨rfl, rfl⟩, ⟨rfl, rfl⟩, ⟨rfl, rfl, rfl⟩⟩

end Sys2Proof.Machine
end

section
/-! PROOF. Family 40_display: 00E0 and DXYN. -/

namespace Sys2Proof.Machine

/-! ## What both display instructions do (R72, R73) -/

/-- I, the core memory, the stack, the timers, the keys, the parameters, the random state and the outputs are
as before. -/
def SameOffScreen (s t : State) : Prop :=
  t.regI = s.regI ∧ SameMemory s t ∧ SameStack s t ∧ SameTimers s t ∧ SameInputs s t ∧ SameRandom s t ∧
    SameOutputs s t

/-- A display instruction sets drawFlag and keeps everything but the registers, PC and the screen. -/
theorem exec_display_frame {i : Instr} {s t : State} (hi : IsDisplay i) (h : exec i s = .next t) :
    t.drawFlag = true ∧ SameOffScreen s t := by
  have hframe := exec_frame h
  obtain rfl | ⟨x, y, n, rfl⟩ := hi
  all_goals
    rw [hframe]
    exact ⟨rfl, rfl, ⟨fun _ => rfl, fun _ => rfl⟩, ⟨rfl, rfl⟩, ⟨rfl, rfl⟩, ⟨rfl, rfl⟩, ⟨rfl, rfl, rfl⟩, rfl⟩

/-- Settles O18: the framebuffer is cleared, and the rest is what both display instructions do. -/
theorem clsClearsTheScreen : Obligations.ClsClearsTheScreen := by
  refine ⟨decodeWord_encode (i := .cls) trivial, fun s => ?_⟩
  obtain ⟨hflag, hrest⟩ := exec_display_frame (i := .cls) (s := s) (.inl rfl) rfl
  exact ⟨_, rfl, s.fbByte_clearFb, hflag, rfl, fun _ _ => rfl, hrest⟩

/-! ## The pixels and VF of DXYN (R73, R74) -/

/-- The pixel at row `r`, column `c` lies under a set bit of the sprite DXYN draws at `s`. -/
def State.DrwCovers (s : State) (x y : Reg) (n : Nibble) (r c : Nat) : Prop :=
  s.SpriteCovers (s.getV x).toNat (s.getV y).toNat s.regI.toNat n.toNat r c

theorem State.DrwCovers.on_screen {s : State} {x y : Reg} {n : Nibble} {r c : Nat} (h : s.DrwCovers x y n r c) :
    r < screenRows ∧ c < screenColumns := by
  obtain ⟨i, -, j, -, rfl, rfl, -⟩ := h
  exact ⟨Nat.mod_lt _ (by decide), Nat.mod_lt _ (by decide)⟩

section
variable {x y : Reg} {n : Nibble} {s t : State} (h : exec (.drw x y n) s = .next t)
include h

/-- `State.drawSprite_spec` for DXYN: VF is cleared before the draw, and no covered pixel is off the screen. -/
theorem exec_drw_spec :
    (∀ r c, s.DrwCovers x y n r c → t.pixel r c = 1 - s.pixel r c) ∧
    (∀ k, (∀ r c, s.DrwCovers x y n r c → k ≠ pixelIndex r c) → t.fbByte k = s.fbByte k) ∧
    ((∃ r c, s.DrwCovers x y n r c ∧ s.pixel r c = 1) → t.getV vf = 1) ∧
    ((¬ ∃ r c, s.DrwCovers x y n r c ∧ s.pixel r c = 1) → t.getV vf = 0) := by
  have hn : n.toNat ≤ screenRows := le_trans (Nat.le_of_lt n.isLt) (by decide)
  obtain ⟨-, hcovered, hother, hon, hoff, -⟩ :=
    (s.setV vf 0).drawSprite_spec (s.getV x).toNat (s.getV y).toNat s.regI.toNat hn
  cases h
  exact ⟨fun r c hcov => hcovered r c hcov.on_screen.2 hcov, hother, hon,
    fun hnone => (hoff hnone).trans (s.getV_setV_same vf 0)⟩

theorem exec_drw_pc : t.pc = s.pc + 2 := by
  cases h
  rw [State.drawSprite_eq, State.toggleAll_eq]
  rfl

theorem exec_drw_pixel_of_not_covers {r c : Nat} (hc : c < screenColumns) (hnot : ¬ s.DrwCovers x y n r c) :
    t.pixel r c = s.pixel r c := by
  obtain ⟨-, hother, -, -⟩ := exec_drw_spec h
  refine hother _ fun r' c' hcov heq => hnot ?_
  obtain ⟨rfl, rfl⟩ := (pixelIndex_inj hc hcov.on_screen.2).1 heq
  exact hcov

theorem exec_drw_fbByte_of_off_screen {k : Nat} (hk : screenSize ≤ k) : t.fbByte k = s.fbByte k := by
  obtain ⟨-, hother, -, -⟩ := exec_drw_spec h
  refine hother k fun r c hcov heq => ?_
  obtain ⟨hr, hc⟩ := hcov.on_screen
  exact absurd (pixelIndex_lt hr hc) (Nat.not_lt.2 (heq ▸ hk))

theorem exec_drw_vf_binary : t.getV vf = 0 ∨ t.getV vf = 1 := by
  obtain ⟨-, -, hon, hoff⟩ := exec_drw_spec h
  exact (em _).symm.imp hoff hon

theorem exec_drw_vf_eq_one_iff : t.getV vf = 1 ↔ ∃ r c, s.DrwCovers x y n r c ∧ s.pixel r c = 1 := by
  obtain ⟨-, -, hon, hoff⟩ := exec_drw_spec h
  refine ⟨fun hvf => by_contra fun hnone => ?_, hon⟩
  rw [hoff hnone] at hvf
  exact absurd hvf (by decide)

end

/-- Settles O19: `exec_drw_spec`, read at the pixels of the screen, and the frame of DXYN. -/
theorem drwTogglesTheCoveredPixels : Obligations.DrwTogglesTheCoveredPixels := by
  intro x y n s
  obtain ⟨t, h⟩ := exec_total (.drw x y n) s
  obtain ⟨hcovered, -, hon, hoff⟩ := exec_drw_spec h
  obtain ⟨hflag, hrest⟩ := exec_display_frame (.inr ⟨x, y, n, rfl⟩) h
  exact ⟨decodeWord_encode (i := .drw x y n) trivial, t, h,
    fun r c _ hc => ⟨hcovered r c, exec_drw_pixel_of_not_covers h hc⟩,
    fun _ hk => exec_drw_fbByte_of_off_screen h hk, hon, hoff, hflag, exec_drw_pc h, exec_sameRegsBut h, hrest⟩

/-! ## Drawing twice (R75) -/

/-- A second DXYN with the same origin covers the same pixels: drawing writes neither I nor the memory. -/
theorem exec_drw_covers_iff {x y : Reg} {n : Nibble} {s t : State} (h : exec (.drw x y n) s = .next t)
    (hx : t.getV x = s.getV x) (hy : t.getV y = s.getV y) (r c : Nat) :
    t.DrwCovers x y n r c ↔ s.DrwCovers x y n r c := by
  obtain ⟨-, hI, ⟨-, hmem⟩, -⟩ := exec_display_frame (.inr ⟨x, y, n, rfl⟩) h
  unfold State.DrwCovers State.SpriteCovers
  simp only [hx, hy, hI, hmem]

section
variable {x y : Reg} {n : Nibble} {s t u : State} (ht : exec (.drw x y n) s = .next t)
  (hx : t.getV x = s.getV x) (hy : t.getV y = s.getV y) (hu : exec (.drw x y n) t = .next u)
include ht hx hy hu

/-- Each covered pixel toggles twice, and every other byte is as before in both draws. -/
theorem exec_drw_twice_fbByte (k : Nat) : u.fbByte k = s.fbByte k := by
  obtain ⟨hcovered, hother, -, -⟩ := exec_drw_spec ht
  obtain ⟨hcovered', hother', -, -⟩ := exec_drw_spec hu
  simp only [exec_drw_covers_iff ht hx hy] at hcovered' hother'
  by_cases hk : ∃ r c, s.DrwCovers x y n r c ∧ k = pixelIndex r c
  · obtain ⟨r, c, hcov, rfl⟩ := hk
    calc u.pixel r c
      _ = 1 - t.pixel r c := hcovered' r c hcov
      _ = 1 - (1 - s.pixel r c) := by rw [hcovered r c hcov]
      _ = s.pixel r c := sub_sub_cancel 1 _
  · have hk' : ∀ r c, s.DrwCovers x y n r c → k ≠ pixelIndex r c := fun r c hcov heq => hk ⟨r, c, hcov, heq⟩
    exact (hother' k hk').trans (hother k hk')

/-- The second draw collides where the first one turned a pixel on. -/
theorem exec_drw_twice_vf_eq_one_iff :
    u.getV vf = 1 ↔ ∃ r c, s.DrwCovers x y n r c ∧ s.pixel r c = 0 := by
  obtain ⟨hcovered, -, -, -⟩ := exec_drw_spec ht
  have hpixel : ∀ r c, s.DrwCovers x y n r c → (t.pixel r c = 1 ↔ s.pixel r c = 0) := by
    intro r c hcov
    rw [hcovered r c hcov, sub_eq_self]
  rw [exec_drw_vf_eq_one_iff hu]
  simp only [exec_drw_covers_iff ht hx hy]
  exact exists_congr fun r => exists_congr fun c => and_congr_right (hpixel r c)

end

/-- Settles O20: the two screens read alike, so in canonical form they are equal. -/
theorem drawingTwiceRestoresTheScreen : Obligations.DrawingTwiceRestoresTheScreen := by
  intro x y n s t hs ht hx hy
  obtain ⟨u, hu⟩ := exec_total (.drw x y n) t
  obtain ⟨-, hwf', -⟩ := exec_inv (exec_inv hs ht) hu
  obtain ⟨-, hwf, -⟩ := hs
  exact ⟨u, hu, Memory.eq_of_reads darkPixel hwf' hwf (exec_drw_twice_fbByte ht hx hy hu),
    exec_drw_vf_binary hu, exec_drw_twice_vf_eq_one_iff ht hx hy hu⟩

/-- Refutes O21: the sprite of one pixel, drawn where that pixel is on, is off at the second draw, which does
not collide (log entry 18). -/
theorem not_secondDrawCollidesWheneverTheSpriteHasABit :
    ¬ Obligations.SecondDrawCollidesWheneverTheSpriteHasABit := by
  intro h
  have hcollides := h 0 1 1 { State.reset.writeMem 0x300 0x80 with regI := 0x300, fb := [(0, 1)] } _ _
    (by decide) rfl (by decide) (by decide) rfl
  exact absurd (hcollides.2 ⟨0, by decide, 7, by decide, by decide⟩) (by decide)

end Sys2Proof.Machine
end

section
/-! PROOF. Family 41_control: zero-extended operands, the return and the call with their stack faults, the jumps
and the skips. -/

namespace Sys2Proof.Machine

/-! ## Zero-extended operands (R10, R60) -/

/-- A 12-bit address keeps its value in a word. -/
theorem addrWord_toNat (nnn : Addr) : (addrWord nnn).toNat = nnn.toNat :=
  BitVec.toNat_setWidth_of_le (by decide)

/-- A byte keeps its value in a word. -/
theorem byteWord_toNat (b : Byte) : (byteWord b).toNat = b.toNat := BitVec.toNat_setWidth_of_le (by decide)

/-! ## The return, the call and their faults (R76 to R78, R81, R122, R123) -/

/-- 00EE and 2NNN. -/
def IsStackOp (i : Instr) : Prop := i = .ret ∨ ∃ nnn, i = .call nnn

/-- The general registers, I, the core memory, the screen, the timers, the keys, the parameters and the random
state are as before. -/
def SameOffStack (s t : State) : Prop :=
  SameRegsBut NoReg s t ∧ t.regI = s.regI ∧ SameMemory s t ∧ SameScreen s t ∧ SameTimers s t ∧
    SameInputs s t ∧ SameRandom s t

/-- 00EE and 2NNN write at most the stack, PC and the outputs. -/
theorem exec_sameOffStack {i : Instr} {s t : State} (hi : IsStackOp i) (h : exec i s = .next t) :
    SameOffStack s t := by
  have hframe := exec_frame h
  obtain rfl | ⟨nnn, rfl⟩ := hi
  all_goals
    rw [hframe]
    exact ⟨fun _ _ => rfl, rfl, ⟨fun _ => rfl, fun _ => rfl⟩, ⟨fun _ _ => rfl, rfl⟩, ⟨rfl, rfl⟩, ⟨rfl, rfl⟩,
      ⟨rfl, rfl, rfl⟩⟩

/-- PC follows STACK_FAULT_PC, one record is added to the outputs, and the stack is as before. -/
def ReportsStackFault (d : Diag) (s t : State) : Prop :=
  FaultPc s t ∧ t.out = { s.out with diag := s.out.diag ++ [d] } ∧ SameStack s t

theorem State.faultPc_stackFault (s : State) : FaultPc s s.stackFault := by
  unfold FaultPc
  rw [State.stackFault_pc]
  constructor
  · intro hhold
    rw [hhold]
  · intro hadvance
    rw [hadvance]

/-- What a push with no room and a pop with nothing stored do alike. -/
theorem State.stackFault_reports (s : State) (d : Diag) : ReportsStackFault d s (s.raise d).stackFault := by
  refine ⟨(s.raise d).faultPc_stackFault, ?_⟩
  rw [State.stackFault_eq]
  exact ⟨rfl, rfl, rfl⟩

/-- Settles O22: the pop where SP > 0, the stack fault where SP = 0, and the frame of both. -/
theorem retPopsOrReportsUnderflow : Obligations.RetPopsOrReportsUnderflow := by
  refine ⟨decodeWord_encode (i := .ret) trivial, fun s => ⟨fun hpos => ?_, fun hempty => ?_⟩⟩
  · have hexec := exec_ret_of_some s hpos
    obtain ⟨hregs, hI, hmem, hscreen, htimers, hinputs, hrandom⟩ := exec_sameOffStack (.inl rfl) hexec
    exact ⟨_, hexec, rfl, rfl, rfl, hregs, hI, hmem, hscreen, htimers, hinputs, hrandom, rfl⟩
  · have hexec := exec_ret_of_empty s hempty
    obtain ⟨hregs, hI, hmem, hscreen, hrest⟩ := exec_sameOffStack (.inl rfl) hexec
    obtain ⟨hpc, hout, hstack⟩ := s.stackFault_reports (.stackUnderflow s.pc (encode .ret))
    exact ⟨_, hexec, hpc, hout, hregs, hI, hmem, hscreen, hstack, hrest⟩

/-- Settles O23: the push where SP < 16, the stack fault where SP = 16, and the frame of both. -/
theorem callPushesOrReportsOverflow : Obligations.CallPushesOrReportsOverflow := by
  intro nnn s
  refine ⟨decodeWord_encode (i := .call nnn) trivial, fun hroom => ?_, fun hfull => ?_⟩
  · have hexec := exec_call_of_room nnn s hroom
    obtain ⟨hregs, hI, hmem, hscreen, htimers, hinputs, hrandom⟩ := exec_sameOffStack (.inr ⟨nnn, rfl⟩) hexec
    exact ⟨_, hexec, rfl, Vector.getElem_set_self _, fun k hk => Vector.getElem_set_ne hroom k.isLt hk.symm,
      addrWord_toNat nnn, hregs, hI, hmem, hscreen, htimers, hinputs, hrandom, rfl⟩
  · have hexec := exec_call_of_full nnn s hfull
    obtain ⟨hregs, hI, hmem, hscreen, hrest⟩ := exec_sameOffStack (.inr ⟨nnn, rfl⟩) hexec
    obtain ⟨hpc, hout, hstack⟩ := s.stackFault_reports (.stackOverflow s.pc (encode (.call nnn)))
    exact ⟨_, hexec, hpc, hout, hregs, hI, hmem, hscreen, hstack, hrest⟩

/-- A call and then a return, from any PC, leave the state before the call but for PC, which is past the call, and
the slot the call wrote, which the return does not clear (R77, R78, R81). -/
theorem exec_ret_after_call (nnn : Addr) (s : State) (p : Word) (hroom : s.sp.val < 16) :
    ∃ t, exec (.call nnn) s = .next t ∧
      exec .ret (t.setPc p) = .next { s with pc := s.pc + 2, stack := s.stack.set s.sp.val s.pc } := by
  refine ⟨_, exec_call_of_room nnn s hroom, ?_⟩
  rw [exec_ret_of_some _ (Nat.succ_pos s.sp.val)]
  simp only [State.setPc_stack, State.setPc_sp, Nat.add_sub_cancel, Vector.getElem_set_self]
  rfl

/-- Settles O24: `exec_ret_after_call`; the slot the call wrote is not below SP. -/
theorem returnResumesAfterTheCall : Obligations.ReturnResumesAfterTheCall := by
  intro nnn s p hroom
  obtain ⟨t, hcall, hret⟩ := exec_ret_after_call nnn s p hroom
  exact ⟨t, _, hcall, hret, rfl, rfl, fun k hk => Vector.getElem_set_ne hroom k.isLt (Nat.ne_of_gt hk)⟩

/-! ## Jumps (R79, R80, R86) -/

/-- A write of PC changes nothing else. -/
theorem State.regFrame_setPc (s : State) (w : Word) : RegFrame NoReg s (s.setPc w) :=
  ⟨fun _ _ => rfl, rfl, ⟨fun _ => rfl, fun _ => rfl⟩, ⟨fun _ _ => rfl, rfl⟩, ⟨rfl, rfl⟩, ⟨rfl, rfl⟩, ⟨rfl, rfl⟩,
    ⟨rfl, rfl, rfl⟩, rfl⟩

/-- Settles O25: both jumps write PC alone. -/
theorem jumpsSetPc : Obligations.JumpsSetPc := by
  intro nnn s
  refine ⟨fun hcls hret => decodeWord_encode (i := .sys nnn) ⟨hcls, hret⟩,
    decodeWord_encode (i := .jp nnn) trivial, ?_, ?_⟩
  all_goals exact ⟨_, rfl, addrWord_toNat nnn, s.regFrame_setPc _⟩

/-- An address and a byte add up to at most 0x10FE, so their sum as words does not wrap (R86). -/
theorem addrWord_add_byteWord_toNat (nnn : Addr) (b : Byte) :
    (addrWord nnn + byteWord b).toNat = nnn.toNat + b.toNat := by
  have hnnn := nnn.isLt
  have hb := b.isLt
  rw [BitVec.toNat_add_of_lt, addrWord_toNat, byteWord_toNat]
  rw [addrWord_toNat, byteWord_toNat]
  omega

/-- Settles O28: the sum of nnn and V0 does not wrap, and the jump writes PC alone. -/
theorem jumpWithOffsetAddsV0 : Obligations.JumpWithOffsetAddsV0 := fun nnn s =>
  ⟨decodeWord_encode (i := .jpV0 nnn) trivial, _, rfl, addrWord_add_byteWord_toNat nnn (s.getV 0),
    s.regFrame_setPc _⟩

/-! ## Skips (R70, R82 to R85) -/

section
variable (s : State) (a b : Byte)

theorem State.skipIf_beq_pc : (s.skipIf (a == b)).pc = if a = b then s.pc + 4 else s.pc + 2 := by
  rw [State.skipIf_pc]
  by_cases h : a = b <;> simp [h]

theorem State.skipIf_bne_pc : (s.skipIf (a != b)).pc = if a = b then s.pc + 2 else s.pc + 4 := by
  rw [State.skipIf_pc]
  by_cases h : a = b <;> simp [h]

end

/-- Settles O26: each skip compares V[x] with nn and writes PC alone. -/
theorem immediateSkips : Obligations.ImmediateSkips := fun x nn s =>
  ⟨decodeWord_encode (i := .seImm x nn) trivial, decodeWord_encode (i := .sneImm x nn) trivial,
    ⟨_, rfl, s.skipIf_beq_pc (s.getV x) nn, s.regFrame_setPc _⟩,
    ⟨_, rfl, s.skipIf_bne_pc (s.getV x) nn, s.regFrame_setPc _⟩⟩

/-- Settles O27: each skip compares V[x] with V[y] and writes PC alone. -/
theorem registerSkips : Obligations.RegisterSkips := fun x y s =>
  ⟨decodeWord_encode (i := .seReg x y) trivial, decodeWord_encode (i := .sneReg x y) trivial,
    ⟨_, rfl, s.skipIf_beq_pc (s.getV x) (s.getV y), s.regFrame_setPc _⟩,
    ⟨_, rfl, s.skipIf_bne_pc (s.getV x) (s.getV y), s.regFrame_setPc _⟩⟩

end Sys2Proof.Machine
end

section
/-! PROOF. Family 42_alu: the loads, copies and bitwise operations, which write V[x] alone, the arithmetic and the
shifts, which write a result and a flag, and the random byte. -/

namespace Sys2Proof.Machine

/-! ## Frames (R70, R89) -/

/-- A state that differs from `s` in the general registers of `W` and PC alone. -/
theorem regFrame_of_eq {W : Reg → Prop} {s t : State} (hregs : SameRegsBut W s t)
    (ht : t = { s with v := t.v, pc := t.pc }) : RegFrame W s t := by
  refine ⟨hregs, ?_⟩
  rw [ht]
  exact ⟨rfl, ⟨fun _ => rfl, fun _ => rfl⟩, ⟨fun _ _ => rfl, rfl⟩, ⟨rfl, rfl⟩, ⟨rfl, rfl⟩, ⟨rfl, rfl⟩,
    ⟨rfl, rfl, rfl⟩, rfl⟩

theorem State.regFrame_setV_advance (s : State) (x : Reg) (b : Byte) :
    RegFrame (OnlyReg x) s (s.setV x b).advance :=
  regFrame_of_eq (fun _ hr => s.getV_setV_ne b hr) rfl

section
variable (s : State) (x : Reg) (r : Byte) (f : Bool)

theorem State.regFrame_writeRF_advance : RegFrame (RegAndVf x) s (s.writeRF x r f).advance := by
  refine regFrame_of_eq (s.sameRegsBut_writeRF x r f) ?_
  rw [State.writeRF_eq]
  rfl

theorem State.writeRF_pc : (s.writeRF x r f).pc = s.pc := by
  rw [State.writeRF_eq]

/-- write_rf by the three cases of R89. -/
theorem State.resultAndFlag_writeRF : ResultAndFlag s (s.writeRF x r f) x r.toNat (flagByte f).toNat := by
  unfold ResultAndFlag
  rw [State.getV_vf_writeRF]
  refine ⟨fun hx => ?_, fun hx hflag => ?_, fun hx hresult => ?_⟩
  · rw [State.getV_dest_writeRF s r f hx, if_neg fun hlast => hx hlast.1]
    exact ⟨rfl, rfl⟩
  · rw [if_neg (by simp [hflag])]
  · rw [if_pos ⟨hx, hresult⟩]

end

/-- An instruction that is write_rf and an advance, its result and its flag read as numbers. -/
theorem exec_resultAndFlag {i : Instr} {s : State} {x : Reg} {r : Byte} {f : Bool} {result flag : Nat}
    (hexec : exec i s = .next (s.writeRF x r f).advance) (hr : r.toNat = result) (hf : (flagByte f).toNat = flag) :
    ∃ t, exec i s = .next t ∧ t.pc = s.pc + 2 ∧ RegFrame (RegAndVf x) s t ∧ ResultAndFlag s t x result flag := by
  subst hr hf
  exact ⟨_, hexec, congrArg (· + 2) (s.writeRF_pc x r f), s.regFrame_writeRF_advance x r f,
    s.resultAndFlag_writeRF x r f⟩

/-! ## Results and flags as numbers (R88) -/

section
variable (a b : Byte)

theorem flagByte_addCarry_toNat :
    (flagByte (addCarry a b)).toNat = if a.toNat + b.toNat > 255 then 1 else 0 := by
  unfold flagByte addCarry
  by_cases h : a.toNat + b.toNat > 255 <;> simp [h]

theorem flagByte_subNoBorrow_toNat :
    (flagByte (subNoBorrow a b)).toNat = if b.toNat > a.toNat then 0 else 1 := by
  unfold flagByte subNoBorrow
  by_cases h : b.toNat > a.toNat <;> simp [h]

theorem byte_sub_toNat : (a - b).toNat = (256 + a.toNat - b.toNat) % 256 := by
  have hb := b.isLt
  rw [BitVec.toNat_sub]
  omega

theorem byte_shr_one_toNat : (a >>> 1).toNat = a.toNat / 2 := by
  rw [BitVec.toNat_ushiftRight, Nat.shiftRight_one]

theorem byte_shl_one_toNat : (a <<< 1).toNat = a.toNat * 2 % 256 := by
  rw [BitVec.toNat_shiftLeft, Nat.shiftLeft_eq]

/-- A bit of a byte as the flag it sets. -/
theorem flagByte_getLsbD_toNat (k : Nat) : (flagByte (a.getLsbD k)).toNat = a.toNat / 2 ^ k % 2 := by
  rw [BitVec.getLsbD, Nat.testBit_eq_decide_div_mod_eq]
  unfold flagByte
  obtain h | h := Nat.mod_two_eq_zero_or_one (a.toNat / 2 ^ k) <;> simp [h]

theorem flagByte_shrOut_toNat : (flagByte (shrOut a)).toNat = a.toNat % 2 := by
  rw [shrOut, flagByte_getLsbD_toNat, pow_zero, Nat.div_one]

theorem flagByte_shlOut_toNat : (flagByte (shlOut a)).toNat = a.toNat / 128 := by
  have ha := a.isLt
  rw [shlOut, flagByte_getLsbD_toNat]
  omega

end

/-! ## Sums, differences and shifts (R96 to R100) -/

/-- Settles O32: write_rf of the sum and its carry. -/
theorem addSetsTheCarry : Obligations.AddSetsTheCarry := fun x y _ =>
  ⟨decodeWord_encode (i := .addReg x y) trivial,
    exec_resultAndFlag rfl (BitVec.toNat_add _ _) (flagByte_addCarry_toNat _ _)⟩

/-- Settles O33: write_rf of each difference and of its own borrow, inverted. -/
theorem subtractionsSetTheInvertedBorrow : Obligations.SubtractionsSetTheInvertedBorrow := fun x y _ =>
  ⟨decodeWord_encode (i := .subReg x y) trivial, decodeWord_encode (i := .subnReg x y) trivial,
    exec_resultAndFlag rfl (byte_sub_toNat _ _) (flagByte_subNoBorrow_toNat _ _),
    exec_resultAndFlag rfl (byte_sub_toNat _ _) (flagByte_subNoBorrow_toNat _ _)⟩

theorem State.shiftSource_eq {s : State} {x y src : Reg} (hx : s.cfg.shiftSource = .vx → src = x)
    (hy : s.cfg.shiftSource = .vy → src = y) : s.shiftSource x y = s.getV src := by
  unfold State.shiftSource
  split
  case h_1 h => rw [hx h]
  case h_2 h => rw [hy h]

/-- Settles O34: write_rf of the source shifted and of the bit dropped. -/
theorem shiftsDropABitIntoVf : Obligations.ShiftsDropABitIntoVf := by
  intro x y s src hx hy
  rw [← State.shiftSource_eq hx hy]
  exact ⟨decodeWord_encode (i := .shrReg x y) trivial, decodeWord_encode (i := .shlReg x y) trivial,
    exec_resultAndFlag rfl (byte_shr_one_toNat _) (flagByte_shrOut_toNat _),
    exec_resultAndFlag rfl (byte_shl_one_toNat _) (flagByte_shlOut_toNat _)⟩

/-! ## One register written (R90 to R95) -/

/-- Settles O29: both write V[x] alone. -/
theorem loadsOfImmediatesAndCopies : Obligations.LoadsOfImmediatesAndCopies := fun x y nn s =>
  ⟨decodeWord_encode (i := .ldImm x nn) trivial, decodeWord_encode (i := .ldReg x y) trivial,
    ⟨_, rfl, s.getV_setV_same x nn, rfl, s.regFrame_setV_advance x nn⟩,
    ⟨_, rfl, s.getV_setV_same x (s.getV y), rfl, s.regFrame_setV_advance x (s.getV y)⟩⟩

/-- Settles O30: the sum of two bytes is taken modulo 256, and V[x] alone is written. -/
theorem addImmediateWrapsWithoutFlag : Obligations.AddImmediateWrapsWithoutFlag := by
  intro x nn s
  refine ⟨decodeWord_encode (i := .addImm x nn) trivial, _, rfl, ?_, rfl, s.regFrame_setV_advance x _⟩
  rw [State.advance_getV, State.getV_setV_same, BitVec.toNat_add]

/-- Settles O31: each is an operation on the bits, and V[x] alone is written. -/
theorem logicWorksBitByBit : Obligations.LogicWorksBitByBit := by
  intro x y s
  refine ⟨decodeWord_encode (i := .orReg x y) trivial, decodeWord_encode (i := .andReg x y) trivial,
    decodeWord_encode (i := .xorReg x y) trivial, ⟨_, rfl, rfl, s.regFrame_setV_advance x _, fun k => ?_⟩,
    ⟨_, rfl, rfl, s.regFrame_setV_advance x _, fun k => ?_⟩,
    ⟨_, rfl, rfl, s.regFrame_setV_advance x _, fun k => ?_⟩⟩
  · rw [State.advance_getV, State.getV_setV_same, BitVec.getLsbD_or]
  · rw [State.advance_getV, State.getV_setV_same, BitVec.getLsbD_and]
  · rw [State.advance_getV, State.getV_setV_same, BitVec.getLsbD_xor]

/-! ## The random byte (R101) -/

theorem State.randomByte_of_draw {s : State} (h : s.cfg.randomSource = .draw) :
    s.randomByte = (Config.drawByte s.draws, s.nextDraw) := by
  unfold State.randomByte
  rw [h]

theorem State.randomByte_of_seeded {s : State} (h : s.cfg.randomSource = .seeded) :
    s.randomByte = (Config.randomFn s.seed s.randCount, { s with randCount := s.randCount + 1 }) := by
  unfold State.randomByte
  rw [h]

/-- I, the core memory, the screen, the stack, the timers, the keys, the parameters, the seed and the outputs are
as before. -/
def SameOffRandom (s t : State) : Prop :=
  t.regI = s.regI ∧ SameMemory s t ∧ SameScreen s t ∧ SameStack s t ∧ SameTimers s t ∧ SameInputs s t ∧
    t.seed = s.seed ∧ SameOutputs s t

section
variable {x : Reg} {nn : Byte} {s t : State} (h : exec (.rnd x nn) s = .next t)
include h

theorem exec_rnd_sameOffRandom : SameOffRandom s t := by
  have hframe : t = { s with v := t.v, pc := t.pc, draws := t.draws, randCount := t.randCount } := exec_frame h
  rw [hframe]
  exact ⟨rfl, ⟨fun _ => rfl, fun _ => rfl⟩, ⟨fun _ _ => rfl, rfl⟩, ⟨rfl, rfl⟩, ⟨rfl, rfl⟩, ⟨rfl, rfl⟩, rfl, rfl⟩

theorem exec_rnd_dest : t.getV x = s.randomByte.1 &&& nn := by
  cases h
  exact State.getV_setV_same _ x _

theorem exec_rnd_randCount : t.randCount = s.randomByte.2.randCount := by
  cases h
  rfl

theorem exec_rnd_pc : t.pc = s.pc + 2 := by
  cases h
  rw [State.randomByte_eq]
  rfl

end

/-- Settles O35: the byte and the count are those of `State.randomByte`, by RANDOM_SOURCE. -/
theorem randomByteIsMasked : Obligations.RandomByteIsMasked := by
  intro x nn s
  obtain ⟨t, h⟩ := exec_total (.rnd x nn) s
  have hdest := exec_rnd_dest h
  have hcount := exec_rnd_randCount h
  refine ⟨decodeWord_encode (i := .rnd x nn) trivial, t, s.randomByte.1, h, hdest, fun hnn => ?_, fun hdraw => ?_,
    fun hseeded => ?_, exec_rnd_pc h, exec_sameRegsBut h, exec_rnd_sameOffRandom h⟩
  · rw [hdest, hnn]
    exact BitVec.and_zero
  · rw [hcount, State.randomByte_of_draw hdraw, State.nextDraw_randCount]
  · rw [hcount, State.randomByte_of_seeded hseeded]
    exact ⟨rfl, rfl⟩

end Sys2Proof.Machine
end

section
/-! PROOF. Family 43_index_memory: the three instructions that write I, the stores of FX33 and FX55, and the loads of
FX65. -/

namespace Sys2Proof.Machine

/-! ## Who writes I (R17, R110) -/

/-- ANNN, FX1E and FX29. -/
def WritesI (i : Instr) : Prop := (∃ nnn, i = .ldI nnn) ∨ (∃ x, i = .addI x) ∨ ∃ x, i = .ldF x

/-- The three instructions that write I write at most a general register and PC beside it. -/
theorem exec_restSame_of_writesI {i : Instr} {s t : State} (hi : WritesI i) (h : exec i s = .next t) :
    RestSame s t := by
  have hframe := exec_frame h
  obtain ⟨nnn, rfl⟩ | ⟨x, rfl⟩ | ⟨x, rfl⟩ := hi
  all_goals
    rw [hframe]
    exact ⟨⟨fun _ => rfl, fun _ => rfl⟩, ⟨fun _ _ => rfl, rfl⟩, ⟨rfl, rfl⟩, ⟨rfl, rfl⟩, ⟨rfl, rfl⟩,
      ⟨rfl, rfl, rfl⟩, rfl⟩

/-- Every other instruction keeps I. -/
theorem exec_regI_of_not_writesI {i : Instr} {s t : State} (hi : ¬ WritesI i) (h : exec i s = .next t) :
    t.regI = s.regI := by
  have hframe := exec_frame h
  cases i
  case ldI nnn => exact absurd (.inl ⟨nnn, rfl⟩) hi
  case addI x => exact absurd (.inr (.inl ⟨x, rfl⟩)) hi
  case ldF x => exact absurd (.inr (.inr ⟨x, rfl⟩)) hi
  all_goals rw [hframe]

/-- Settles O48: the step around EXECUTE does not write I, so the decoded instruction wrote it. -/
theorem onlyThreeInstructionsWriteI : Obligations.OnlyThreeInstructionsWriteI := by
  intro s t h hne
  obtain ⟨i, u, hd, hexec, ht⟩ | ⟨-, ht⟩ := step_observed State.regI (fun _ _ _ _ _ => rfl) h
  · refine ⟨i, hd, by_contra fun hi => hne ?_⟩
    have hI := exec_regI_of_not_writesI hi hexec
    exact ht.trans hI
  · exact absurd ht hne

/-! ## I as a number (R103 to R105) -/

/-- The glyph address does not wrap, even for the largest byte (R105). -/
theorem glyphAddress_toNat (b : Byte) : (glyphAddress b).toNat = 0x050 + 5 * b.toNat := by
  have hb := b.isLt
  rw [glyphAddress, BitVec.toNat_ofNat, fontBase]
  omega

/-- Settles O36: the value each writes to I, and the frame of both. -/
theorem loadsOfTheIndexRegister : Obligations.LoadsOfTheIndexRegister := fun nnn x s =>
  ⟨decodeWord_encode (i := .ldI nnn) trivial, decodeWord_encode (i := .ldF x) trivial,
    ⟨_, rfl, addrWord_toNat nnn, rfl, fun _ _ => rfl, exec_restSame_of_writesI (.inl ⟨nnn, rfl⟩) rfl⟩,
    ⟨_, rfl, glyphAddress_toNat (s.getV x), rfl, fun _ _ => rfl,
      exec_restSame_of_writesI (.inr (.inr ⟨x, rfl⟩)) rfl⟩⟩

@[simp] theorem State.writeFx1eFlag_regI (s : State) (n : Nat) : (s.writeFx1eFlag n).regI = s.regI := by
  rw [State.writeFx1eFlag_eq]

@[simp] theorem State.writeFx1eFlag_pc (s : State) (n : Nat) : (s.writeFx1eFlag n).pc = s.pc := by
  rw [State.writeFx1eFlag_eq]

theorem fx1eLimitValue_eq {c : Config} {limit : Nat} (h16 : c.fx1eLimit = .reg16 → limit = 0xFFFF)
    (h12 : c.fx1eLimit = .addr12 → limit = 0x0FFF) : fx1eLimitValue c = limit := by
  unfold fx1eLimitValue
  split
  case h_1 h => exact (h16 h).symm
  case h_2 h => exact (h12 h).symm

section
variable {x : Reg} {s t : State} (h : exec (.addI x) s = .next t)
include h

theorem exec_addI_regI : t.regI.toNat = (s.regI.toNat + (s.getV x).toNat) % 65536 := by
  cases h
  rw [State.advance_regI, State.writeFx1eFlag_regI, State.setI_regI, BitVec.toNat_add, byteWord_toNat]

theorem exec_addI_pc : t.pc = s.pc + 2 := by
  cases h
  rw [State.advance_pc, State.writeFx1eFlag_pc, State.setI_pc]

/-- VF after FX1E: 1 above the limit, and up to it what FX1E_NO_OVERFLOW says. -/
theorem exec_addI_vf :
    t.getV vf =
      if s.regI.toNat + (s.getV x).toNat > fx1eLimitValue s.cfg then 1
      else if s.cfg.fx1eNoOverflow = .clear then 0
      else s.getV vf := by
  cases h
  rw [State.advance_getV, State.getV_writeFx1eFlag]
  simp

end

/-- Settles O37: the sum truncated is I, and the sum untruncated decides VF. -/
theorem addToIndexSetsVf : Obligations.AddToIndexSetsVf := by
  intro x s limit h16 h12
  obtain ⟨t, h⟩ := exec_total (.addI x) s
  have hvf := exec_addI_vf h
  rw [fx1eLimitValue_eq h16 h12] at hvf
  refine ⟨decodeWord_encode (i := .addI x) trivial, t, h, exec_addI_regI h, fun habove => ?_, fun hupto hclear => ?_,
    fun hupto hkeep => ?_, exec_addI_pc h, exec_sameRegsBut h, exec_restSame_of_writesI (.inr (.inl ⟨x, rfl⟩)) h⟩
  · rw [hvf, if_pos habove]
  · rw [hvf, if_neg (Nat.not_lt.2 hupto), if_pos hclear]
  · rw [hvf, if_neg (Nat.not_lt.2 hupto), hkeep, if_neg (by decide)]

/-! ## Stores (R106, R107, R109) -/

/-- FX33 and FX55. -/
def IsStore (i : Instr) : Prop := (∃ x, i = .ldB x) ∨ ∃ x, i = .storeRegs x

/-- The stores write the core memory and PC alone. -/
theorem exec_store_frame {i : Instr} {s t : State} (hi : IsStore i) (h : exec i s = .next t) :
    SameRegsBut NoReg s t ∧ t.regI = s.regI ∧ NonMemorySame s t := by
  have hframe := exec_frame h
  obtain ⟨x, rfl⟩ | ⟨x, rfl⟩ := hi
  all_goals
    rw [hframe]
    exact ⟨fun _ _ => rfl, rfl, ⟨fun _ _ => rfl, rfl⟩, ⟨rfl, rfl⟩, ⟨rfl, rfl⟩, ⟨rfl, rfl⟩, ⟨rfl, rfl, rfl⟩, rfl⟩

section
variable (b : Byte)

theorem hundreds_toNat : (hundreds b).toNat = b.toNat / 100 := by
  have hb := b.isLt
  rw [hundreds, BitVec.toNat_ofNat]
  omega

theorem tens_toNat : (tens b).toNat = b.toNat / 10 % 10 := by
  rw [tens, BitVec.toNat_ofNat]
  omega

theorem units_toNat : (units b).toNat = b.toNat % 10 := by
  rw [units, BitVec.toNat_ofNat]
  omega

end

/-- A byte after FX33: the last of the three writes that falls on it, or what it was. -/
theorem exec_ldB_byteAt {x : Reg} {s t : State} (h : exec (.ldB x) s = .next t) (k : Nat) :
    t.byteAt k =
      if k = ea s.cfg (s.indexed 2) then units (s.getV x)
      else if k = ea s.cfg (s.indexed 1) then tens (s.getV x)
      else if k = ea s.cfg (s.indexed 0) then hundreds (s.getV x)
      else s.byteAt k := by
  cases h
  simp only [State.advance_byteAt, State.byteAt_writeMem, State.writeMem_cfg]

/-- Settles O38: the last write on each of the three bytes, and the frame of a store. -/
theorem bcdStoresTheDigits : Obligations.BcdStoresTheDigits := by
  intro x s
  obtain ⟨t, h⟩ := exec_total (.ldB x) s
  refine ⟨decodeWord_encode (i := .ldB x) trivial, t, h, ?_, fun h12 => ?_, fun h01 h02 => ?_,
    fun k h0 h1 h2 => ?_, ?_, exec_store_frame (.inl ⟨x, rfl⟩) h⟩
  · rw [exec_ldB_byteAt h, if_pos rfl, units_toNat]
  · rw [exec_ldB_byteAt h, if_neg h12, if_pos rfl, tens_toNat]
  · rw [exec_ldB_byteAt h, if_neg h02, if_neg h01, if_pos rfl, hundreds_toNat]
  · rw [exec_ldB_byteAt h, if_neg h2, if_neg h1, if_neg h0]
  · cases h
    rfl

/-- FX55 stores each register of its range at its address, where no higher one of the range falls. -/
theorem exec_storeRegs_byteAt {x k : Reg} {s t : State} (h : exec (.storeRegs x) s = .next t)
    (hk : InRange s.cfg x k)
    (hlast : ∀ k' : Reg, InRange s.cfg x k' → k < k' →
      ea s.cfg (s.indexed k'.val) ≠ ea s.cfg (s.indexed k.val)) :
    t.byteAt (ea s.cfg (s.indexed k.val)) = s.getV k := by
  cases h
  simp only [← mem_rangeRegs_iff_inRange] at hk hlast
  exact s.byteAt_storeRange _ (rangeRegs_sorted s.cfg x) hk hlast

theorem exec_storeRegs_pc {x : Reg} {s t : State} (h : exec (.storeRegs x) s = .next t) : t.pc = s.pc + 2 := by
  cases h
  rw [State.storeRange_eq]
  rfl

/-- Settles O39: the bytes of the range, the bytes FX55 cannot write, and the frame of a store. -/
theorem storeRegistersWritesTheRange : Obligations.StoreRegistersWritesTheRange := by
  intro x s
  obtain ⟨t, h⟩ := exec_total (.storeRegs x) s
  refine ⟨decodeWord_encode (i := .storeRegs x) trivial, t, h, fun k hk hlast => exec_storeRegs_byteAt h hk hlast,
    fun j hj => exec_byteAt h ?_, exec_storeRegs_pc h, exec_store_frame (.inr ⟨x, rfl⟩) h⟩
  rintro ⟨k, hk, rfl⟩
  exact hj k hk rfl

/-! ## Loads (R108, R109) -/

section
variable {x : Reg} {s t : State} (h : exec (.loadRegs x) s = .next t)
include h

theorem exec_loadRegs_getV_of_inRange {k : Reg} (hk : InRange s.cfg x k) :
    t.getV k = s.readMem (s.indexed k.val) := by
  cases h
  rw [State.advance_getV, State.getV_loadRange, if_pos ((mem_rangeRegs_iff_inRange s.cfg x k).2 hk)]

/-- `WritableReg` leaves FX65 the registers up to V[x]; the range of R109 is sharper under `exclusive`. -/
theorem exec_loadRegs_regFrame : RegFrame (InRange s.cfg x) s t := by
  refine regFrame_of_eq (fun k hk => ?_) (exec_frame h)
  cases h
  rw [State.advance_getV, State.getV_loadRange, if_neg fun hmem => hk ((mem_rangeRegs_iff_inRange s.cfg x k).1 hmem)]

theorem exec_loadRegs_pc : t.pc = s.pc + 2 := by
  cases h
  rw [State.loadRange_eq]
  rfl

end

/-- Settles O40: the registers of the range, and the frame of FX65. -/
theorem loadRegistersReadsTheRange : Obligations.LoadRegistersReadsTheRange := by
  intro x s
  obtain ⟨t, h⟩ := exec_total (.loadRegs x) s
  exact ⟨decodeWord_encode (i := .loadRegs x) trivial, t, h, fun _ hk => exec_loadRegs_getV_of_inRange h hk,
    exec_loadRegs_pc h, exec_loadRegs_regFrame h⟩

end Sys2Proof.Machine
end

section
/-! PROOF. Family 44_keys_timers: the key lookup of EX9E and EXA1, the key wait FX0A, and the moves between a register
and a timer. -/

namespace Sys2Proof.Machine

/-! ## What the key instructions leave as before (R111, R115) -/

/-- EX9E, EXA1 and FX0A. -/
def ReadsKeys (i : Instr) : Prop := (∃ x, i = .skp x) ∨ (∃ x, i = .sknp x) ∨ ∃ x, i = .ldVKey x

/-- I, the core memory, the screen, the stack, the timers, the keys, the parameters, the seed, the CXNN count and the
outputs are as before. -/
def SameOffDraws (s t : State) : Prop :=
  t.regI = s.regI ∧ SameMemory s t ∧ SameScreen s t ∧ SameStack s t ∧ SameTimers s t ∧ SameInputs s t ∧
    t.seed = s.seed ∧ t.randCount = s.randCount ∧ SameOutputs s t

/-- The key instructions write at most a general register, PC and the draw number. -/
theorem exec_sameOffDraws {i : Instr} {s t : State} (hi : ReadsKeys i) (h : exec i s = .next t) :
    SameOffDraws s t := by
  have hframe := exec_frame h
  obtain ⟨x, rfl⟩ | ⟨x, rfl⟩ | ⟨x, rfl⟩ := hi
  all_goals
    rw [hframe]
    exact ⟨rfl, ⟨fun _ => rfl, fun _ => rfl⟩, ⟨fun _ _ => rfl, rfl⟩, ⟨rfl, rfl⟩, ⟨rfl, rfl⟩, ⟨rfl, rfl⟩, rfl, rfl,
      rfl⟩

/-! ## The key lookup (R111 to R113) -/

section
variable (s : State) {b : Byte}

@[simp] theorem State.pressed_pc (b : Byte) : (s.pressed b).2.pc = s.pc := by
  rw [State.pressed_eq]

theorem State.pressed_of_lowNibble (h : 15 < b.toNat) (hlow : s.cfg.keyIndexPolicy = .lowNibble) :
    s.pressed b = (s.key[b.toNat % 16]'(Nat.mod_lt _ (by decide)), s) := by
  rw [State.pressed, dif_neg (Nat.not_lt.2 h), hlow]

theorem State.pressed_of_notPressed (h : 15 < b.toNat) (hnot : s.cfg.keyIndexPolicy = .notPressed) :
    s.pressed b = (false, s) := by
  rw [State.pressed, dif_neg (Nat.not_lt.2 h), hnot]

/-- The lookup answers what R111 allows: under `draw` a value above 15 is bound by no clause. -/
theorem State.keyLookup_pressed (b : Byte) : KeyLookup s b (s.pressed b).1 := by
  refine ⟨fun k hk => ?_, fun h15 hlow k hk => ?_, fun h15 hnot => ?_⟩
  · rw [s.pressed_of_lt (hk ▸ k.isLt)]
    simp only [hk]
  · rw [s.pressed_of_lowNibble h15 hlow]
    simp only [hk]
  · rw [s.pressed_of_notPressed h15 hnot]

end

theorem exec_skp_pc {x : Reg} {s t : State} (h : exec (.skp x) s = .next t) :
    t.pc = if (s.pressed (s.getV x)).1 then s.pc + 4 else s.pc + 2 := by
  cases h
  rw [State.skipIf_pc, State.pressed_pc, apply_ite (s.pc + ·)]

theorem exec_sknp_pc {x : Reg} {s t : State} (h : exec (.sknp x) s = .next t) :
    t.pc = if (s.pressed (s.getV x)).1 then s.pc + 2 else s.pc + 4 := by
  cases h
  rw [State.skipIf_pc, State.pressed_pc, apply_ite (s.pc + ·)]
  cases (s.pressed (s.getV x)).1 <;> rfl

/-- Settles O41: both skips decide by the one lookup, and write PC and the draw number alone. -/
theorem keySkipsReadTheKeyTable : Obligations.KeySkipsReadTheKeyTable := fun x s =>
  ⟨decodeWord_encode (i := .skp x) trivial, decodeWord_encode (i := .sknp x) trivial,
    ⟨_, _, rfl, s.keyLookup_pressed (s.getV x), exec_skp_pc rfl, exec_sameRegsBut (i := .skp x) rfl,
      exec_sameOffDraws (.inl ⟨x, rfl⟩) rfl⟩,
    ⟨_, _, rfl, s.keyLookup_pressed (s.getV x), exec_sknp_pc rfl, exec_sameRegsBut (i := .sknp x) rfl,
      exec_sameOffDraws (.inr (.inl ⟨x, rfl⟩)) rfl⟩⟩

/-! ## The key wait (R115) -/

theorem State.pressedKeys_sorted (s : State) : s.pressedKeys.Pairwise (· < ·) :=
  (List.pairwise_lt_finRange 16).filter _

theorem State.pressedKeys_eq_nil {s : State} (h : ∀ k : Key, s.key[k.val] = false) : s.pressedKeys = [] :=
  List.filter_eq_nil_iff.2 fun k _ => by simp [h k]

section
variable {s : State} {k : Key} {ks : List Key} (h : s.pressedKeys = k :: ks)
include h

theorem State.selectKey_pressed : s.key[(s.selectKey k ks).1.val] = true := by
  rw [← State.mem_pressedKeys, h]
  exact s.selectKey_mem k ks

/-- Under `lowest` the key taken is the head of P, which rises. -/
theorem State.selectKey_le_of_lowest (hlowest : s.cfg.keyWaitSelect = .lowest) {j : Key}
    (hj : s.key[j.val] = true) : (s.selectKey k ks).1 ≤ j := by
  have hsorted := s.pressedKeys_sorted
  have hmem := (s.mem_pressedKeys j).2 hj
  rw [h] at hsorted hmem
  rw [State.selectKey, hlowest]
  obtain rfl | hj := List.mem_cons.1 hmem
  · exact le_refl j
  · exact le_of_lt (List.rel_of_pairwise_cons hsorted hj)

/-- FX0A with a key pressed (R115). -/
theorem exec_ldVKey_of_pressed (x : Reg) :
    exec (.ldVKey x) s =
      .next ((s.selectKey k ks).2.setV x (BitVec.ofNat 8 (s.selectKey k ks).1.val)).advance := by
  rw [exec, execLdVKey, h]

end

/-- FX0A with no key pressed (R115). -/
theorem exec_ldVKey_of_none {s : State} (h : s.pressedKeys = []) (x : Reg) : exec (.ldVKey x) s = .next s := by
  rw [exec, execLdVKey, h]

/-- A key's number fits in a byte. -/
theorem keyByte_toNat (k : Key) : (BitVec.ofNat 8 k.val).toNat = k.val :=
  Nat.mod_eq_of_lt (lt_trans k.isLt (by decide))

/-- Settles O42: P is empty, or the key taken is one of P. -/
theorem keyWaitRepeatsOrTakesAKey : Obligations.KeyWaitRepeatsOrTakesAKey := by
  intro x s
  refine ⟨decodeWord_encode (i := .ldVKey x) trivial,
    fun hnone => exec_ldVKey_of_none (State.pressedKeys_eq_nil hnone) x, fun k₀ hk₀ => ?_⟩
  have hne : s.pressedKeys ≠ [] := List.ne_nil_of_mem ((s.mem_pressedKeys k₀).2 hk₀)
  obtain ⟨k, ks, hP⟩ := List.exists_cons_of_ne_nil hne
  have hexec := exec_ldVKey_of_pressed hP x
  refine ⟨_, (s.selectKey k ks).1, hexec, State.selectKey_pressed hP, ?_,
    fun hlowest _ hj => State.selectKey_le_of_lowest hP hlowest hj, ?_, exec_sameRegsBut hexec,
    exec_sameOffDraws (.inr (.inr ⟨x, rfl⟩)) hexec⟩
  · rw [State.advance_getV, State.getV_setV_same, keyByte_toNat]
  · rw [State.advance_pc, State.setV_pc, State.selectKey_eq]

/-! ## Moves between a register and a timer (R114, R116, R117) -/

/-- FX15 and FX18. -/
def WritesTimer (i : Instr) : Prop := (∃ x, i = .ldDt x) ∨ ∃ x, i = .ldSt x

/-- The general registers, I, the core memory, the screen, the stack, the keys, the parameters, the random state and
the outputs are as before. -/
def SameOffTimers (s t : State) : Prop :=
  SameRegsBut NoReg s t ∧ t.regI = s.regI ∧ SameMemory s t ∧ SameScreen s t ∧ SameStack s t ∧ SameInputs s t ∧
    SameRandom s t ∧ SameOutputs s t

/-- FX15 and FX18 write a timer and PC alone. -/
theorem exec_sameOffTimers {i : Instr} {s t : State} (hi : WritesTimer i) (h : exec i s = .next t) :
    SameOffTimers s t := by
  have hframe := exec_frame h
  obtain ⟨x, rfl⟩ | ⟨x, rfl⟩ := hi
  all_goals
    rw [hframe]
    exact ⟨fun _ _ => rfl, rfl, ⟨fun _ => rfl, fun _ => rfl⟩, ⟨fun _ _ => rfl, rfl⟩, ⟨rfl, rfl⟩, ⟨rfl, rfl⟩,
      ⟨rfl, rfl, rfl⟩, rfl⟩

/-- Settles O43: FX07 writes V[x] alone, FX15 and FX18 their timer alone. -/
theorem timerRegisterMoves : Obligations.TimerRegisterMoves := fun x s =>
  ⟨decodeWord_encode (i := .ldVDt x) trivial, decodeWord_encode (i := .ldDt x) trivial,
    decodeWord_encode (i := .ldSt x) trivial,
    ⟨_, rfl, s.getV_setV_same x s.dt, rfl, s.regFrame_setV_advance x s.dt⟩,
    ⟨_, rfl, rfl, rfl, rfl, exec_sameOffTimers (.inl ⟨x, rfl⟩) rfl⟩,
    ⟨_, rfl, rfl, rfl, rfl, exec_sameOffTimers (.inr ⟨x, rfl⟩) rfl⟩⟩

end Sys2Proof.Machine
end

section
/-! PROOF. Family 60_exceptions: no condition halts the core, the records a step raises, and the timers along
steps. -/

namespace Sys2Proof.Machine

/-! ## No condition halts the core (R119, R143) -/

/-- Settles O6: EXECUTE answers a next state for every decoded instruction, and so does the ILLEGAL rule. -/
theorem stepAlwaysAnswersNext : Obligations.StepAlwaysAnswersNext := step_total

/-! ## The records of a step (R120 to R123, R125) -/

/-- The records EXECUTE raises from `s`: at most a stack fault, under the word of the instruction. -/
def raisedRecords (s : State) : Instr → List Diag
  | .ret => if s.sp.val = 0 then [.stackUnderflow s.pc (encode .ret)] else []
  | .call nnn => if s.sp.val = 16 then [.stackOverflow s.pc (encode (.call nnn))] else []
  | _ => []

/-- EXECUTE adds its records to the outputs and no other output. -/
theorem exec_out {i : Instr} {s t : State} (h : exec i s = .next t) :
    t.out = { s.out with diag := s.out.diag ++ raisedRecords s i } := by
  have hframe := exec_frame h
  cases i
  case ret =>
    by_cases hempty : s.sp.val = 0
    · rw [exec_ret_of_empty s hempty, State.stackFault_eq] at h
      cases h
      simp [raisedRecords, hempty]
    · rw [exec_ret_of_some s (Nat.pos_of_ne_zero hempty)] at h
      cases h
      simp [raisedRecords, hempty]
  case call nnn =>
    by_cases hfull : s.sp.val = 16
    · rw [exec_call_of_full nnn s hfull, State.stackFault_eq] at h
      cases h
      simp [raisedRecords, hfull]
    · rw [exec_call_of_room nnn s (by omega)] at h
      cases h
      simp [raisedRecords, hfull]
  all_goals
    rw [hframe]
    simp [raisedRecords]

theorem raisedRecords_length_le_one (s : State) (i : Instr) : (raisedRecords s i).length ≤ 1 := by
  unfold raisedRecords
  split
  case h_1 | h_2 => split <;> simp
  case h_3 => simp

theorem mem_raisedRecords_iff (s : State) (i : Instr) (d : Diag) :
    d ∈ raisedRecords s i ↔
      (d = .stackOverflow s.pc (encode i) ∧ s.sp.val = 16 ∧ ∃ nnn, i = .call nnn) ∨
      (d = .stackUnderflow s.pc (encode i) ∧ s.sp.val = 0 ∧ i = .ret) := by
  cases i
  case ret => by_cases hempty : s.sp.val = 0 <;> simp [raisedRecords, hempty]
  case call => by_cases hfull : s.sp.val = 16 <;> simp [raisedRecords, hfull]
  all_goals simp [raisedRecords]

/-- A step's records are those of its instruction, or the one record of an ILLEGAL word. -/
theorem step_diag {s t : State} (h : step s = .next t) :
    (∃ i, decodeWord s.fetch = .ok i ∧ t.out.diag = raisedRecords s i) ∨
    (∃ e, decodeWord s.fetch = .error e ∧ t.out.diag = [.illegalInstruction s.pc s.fetch]) := by
  obtain ⟨i, u, hd, hexec, rfl⟩ | ⟨e, hd, rfl⟩ := step_cases h
  · refine .inl ⟨i, hd, ?_⟩
    rw [State.timerUpdate_diag, exec_out hexec]
    rfl
  · exact .inr ⟨e, hd, State.timerUpdate_diag _⟩

/-- Settles O54: `step_diag`; the word of a stack record is the fetched word, since encode undoes decode. -/
theorem aStepRaisesAtMostOneRecord : Obligations.AStepRaisesAtMostOneRecord := by
  intro s t h
  obtain ⟨i, hd, hdiag⟩ | ⟨e, hd, hdiag⟩ := step_diag h
  · obtain ⟨hword, -⟩ := encodeOfDecodeIsTheWord s.fetch i hd
    rw [hdiag]
    refine ⟨raisedRecords_length_le_one s i, fun d => ?_⟩
    rw [mem_raisedRecords_iff, hword, hd]
    simp
  · rw [hdiag, hd]
    simp

/-! ## The timers along a step (R116, R117, R130, R131) -/

/-- DT as EXECUTE leaves it. -/
def dtAfterExec (s : State) : Instr → Byte
  | .ldDt x => s.getV x
  | _ => s.dt

/-- ST as EXECUTE leaves it. -/
def stAfterExec (s : State) : Instr → Byte
  | .ldSt x => s.getV x
  | _ => s.st

theorem exec_timers {i : Instr} {s t : State} (h : exec i s = .next t) :
    t.dt = dtAfterExec s i ∧ t.st = stAfterExec s i := by
  have hframe := exec_frame h
  cases i
  case ldDt | ldSt =>
    cases h
    exact ⟨rfl, rfl⟩
  all_goals
    rw [hframe]
    exact ⟨rfl, rfl⟩

section
variable {s t : State}

theorem dtBeforeUpdate_of_decodes {i : Instr} (hd : decodeWord s.fetch = .ok i) :
    dtBeforeUpdate s = (dtAfterExec s i).toNat := by
  unfold dtBeforeUpdate
  rw [hd]
  cases i <;> rfl

theorem stBeforeUpdate_of_decodes {i : Instr} (hd : decodeWord s.fetch = .ok i) :
    stBeforeUpdate s = (stAfterExec s i).toNat := by
  unfold stBeforeUpdate
  rw [hd]
  cases i <;> rfl

theorem dtBeforeUpdate_of_no_ldDt (h : ¬ ∃ x, decodeWord s.fetch = .ok (.ldDt x)) :
    dtBeforeUpdate s = s.dt.toNat := by
  unfold dtBeforeUpdate
  split
  case h_1 x hd => exact absurd ⟨x, hd⟩ h
  case h_2 => rfl

theorem stBeforeUpdate_of_no_ldSt (h : ¬ ∃ x, decodeWord s.fetch = .ok (.ldSt x)) :
    stBeforeUpdate s = s.st.toNat := by
  unfold stBeforeUpdate
  split
  case h_1 x hd => exact absurd ⟨x, hd⟩ h
  case h_2 => rfl

/-- The timer update of a step begins with the timers as stated and with no sound-stop event. -/
theorem step_before_timerUpdate (h : step s = .next t) :
    ∃ u : State, t = u.timerUpdate ∧ u.dt.toNat = dtBeforeUpdate s ∧ u.st.toNat = stBeforeUpdate s ∧
      u.out.soundStop = false := by
  obtain ⟨i, u, hd, hexec, rfl⟩ | ⟨e, hd, rfl⟩ := step_cases h
  · obtain ⟨hdt, hst⟩ := exec_timers hexec
    refine ⟨u, rfl, ?_, ?_, ?_⟩
    · rw [hdt, dtBeforeUpdate_of_decodes hd]
      rfl
    · rw [hst, stBeforeUpdate_of_decodes hd]
      rfl
    · rw [exec_out hexec]
      rfl
  · have hillegal : ∀ i, decodeWord s.fetch ≠ .ok i := by simp [hd]
    exact ⟨_, rfl, (dtBeforeUpdate_of_no_ldDt fun ⟨x, hx⟩ => hillegal _ hx).symm,
      (stBeforeUpdate_of_no_ldSt fun ⟨x, hx⟩ => hillegal _ hx).symm, rfl⟩

end

theorem State.timerUpdate_dt_toNat (s : State) : s.timerUpdate.dt.toNat = s.dt.toNat - 1 := by
  rw [State.timerUpdate_dt]
  exact toNat_tick s.dt

theorem State.timerUpdate_st_toNat (s : State) : s.timerUpdate.st.toNat = s.st.toNat - 1 := by
  rw [State.timerUpdate_st]
  exact toNat_tick s.st

theorem State.timerUpdate_soundStop_iff {s : State} (h : s.out.soundStop = false) :
    s.timerUpdate.out.soundStop = true ↔ s.st.toNat = 1 := by
  have hone : s.st = 1 ↔ s.st.toNat = 1 := BitVec.toNat_inj.symm
  rw [State.timerUpdate_out, ← hone]
  split
  case isTrue hst => exact iff_of_true rfl hst
  case isFalse hst => exact iff_of_false (by simp [h]) hst

/-- Settles O44: the timer update, from what EXECUTE left; a reset sets each field. -/
theorem everyStepCountsTheTimersDown : Obligations.EveryStepCountsTheTimersDown := by
  refine ⟨fun s t h => ?_, fun s seed => ⟨rfl, rfl, rfl⟩⟩
  obtain ⟨u, rfl, hdt, hst, hsilent⟩ := step_before_timerUpdate h
  rw [← hdt, ← hst]
  exact ⟨u.timerUpdate_dt_toNat, u.timerUpdate_st_toNat, State.timerUpdate_soundStop_iff hsilent⟩

/-! ## The timers along a run (R145, R155) -/

theorem runSteps_succ_of_step {s u : State} (h : step s = .next u) (n : Nat) :
    runSteps (n + 1) s = runSteps n u := by
  rw [runSteps, h]

/-- A timer that falls by one in every step outside `Writes` falls by n in n such steps. -/
theorem runSteps_counts_down {timer : State → Nat} {Writes : State → Prop}
    (hstep : ∀ s t, step s = .next t → ¬ Writes s → timer t = timer s - 1) {n : Nat} {s t : State}
    (hrun : runSteps n s = .next t) (hnot : ∀ j u, j < n → runSteps j s = .next u → ¬ Writes u) :
    timer t = timer s - n := by
  induction n generalizing s with
  | zero =>
    cases hrun
    rfl
  | succ n ih =>
    obtain ⟨u, hu⟩ := step_total s
    rw [runSteps_succ_of_step hu] at hrun
    have hfirst : timer u = timer s - 1 := hstep s u hu (hnot 0 s n.succ_pos rfl)
    have hrest : timer t = timer u - n := by
      refine ih hrun fun j r hj hr => hnot (j + 1) r (Nat.succ_lt_succ hj) ?_
      rw [runSteps_succ_of_step hu, hr]
    omega

/-- A step that is not FX15 counts DT down. -/
theorem step_dt_of_no_ldDt (s t : State) (h : step s = .next t)
    (hnot : ¬ ∃ x, decodeWord s.fetch = .ok (.ldDt x)) : t.dt.toNat = s.dt.toNat - 1 := by
  obtain ⟨hdt, -, -⟩ := everyStepCountsTheTimersDown.1 s t h
  rw [hdt, dtBeforeUpdate_of_no_ldDt hnot]

/-- A step that is not FX18 counts ST down. -/
theorem step_st_of_no_ldSt (s t : State) (h : step s = .next t)
    (hnot : ¬ ∃ x, decodeWord s.fetch = .ok (.ldSt x)) : t.st.toNat = s.st.toNat - 1 := by
  obtain ⟨-, hst, -⟩ := everyStepCountsTheTimersDown.1 s t h
  rw [hst, stBeforeUpdate_of_no_ldSt hnot]

/-- Settles O45, by induction on the number of steps, once for both timers. -/
theorem timersCountSteps : Obligations.TimersCountSteps := fun _ _ _ hrun =>
  ⟨fun hnot => runSteps_counts_down step_dt_of_no_ldDt hrun fun j u hj hu ⟨x, hx⟩ => hnot j u x hj hu hx,
    fun hnot => runSteps_counts_down step_st_of_no_ldSt hrun fun j u hj hu ⟨x, hx⟩ => hnot j u x hj hu hx⟩

end Sys2Proof.Machine
end

section
/-! PROOF. Family 70_reset_and_hazards: reset and load, the idle loop, and the timers as a program sees them. -/

namespace Sys2Proof.Machine

/-! ## Reset (R8, R138) -/

/-- No host action writes the parameters. -/
theorem hostAct_cfg {a : HostAction} {s t : State} (h : hostAct a s = .next t) : t.cfg = s.cfg := by
  cases a with
  | reset | setKey | clearDrawFlag =>
    cases h
    rfl
  | load image =>
    cases h
    exact s.hostLoad_cfg image
  | step =>
    obtain ⟨-, hcfg, -⟩ := noStepWritesKeysParametersOrSeed s t h
    exact hcfg

theorem hostAct_of_runHost_cons {a : HostAction} {as : List HostAction} {s t : State}
    (h : runHost (a :: as) s = .next t) : ∃ u, hostAct a s = .next u ∧ runHost as u = .next t := by
  rw [runHost] at h
  split at h
  case h_1 u hact => exact ⟨u, hact, h⟩
  case h_2 | h_3 => cases h

theorem runHost_cfg {as : List HostAction} {s t : State} (h : runHost as s = .next t) : t.cfg = s.cfg := by
  induction as generalizing s with
  | nil =>
    cases h
    rfl
  | cons a as ih =>
    obtain ⟨u, hact, hrun⟩ := hostAct_of_runHost_cons h
    exact (ih hrun).trans (hostAct_cfg hact)

/-- Settles O2: a reset reads the parameters and the draw number alone, and no host action writes the parameters. -/
theorem resetForgetsTheStateBefore : Obligations.ResetForgetsTheStateBefore := by
  intro as s t seed hrun
  refine ⟨rfl, ?_⟩
  unfold State.hostReset
  rw [runHost_cfg hrun]

/-! ## Load (R124, R139, R140) -/

section
variable (bs : List Byte) (s : State) (base : Nat) (hfits : base + bs.length ≤ memorySize)
include hfits

/-- The copy loop leaves every byte outside the image's place as it was. -/
theorem State.byteAt_copyImage_outside {j : Nat} (hj : j < base ∨ base + bs.length ≤ j) :
    (s.copyImage base bs).byteAt j = s.byteAt j := by
  induction bs generalizing s base with
  | nil => rfl
  | cons b bs ih =>
    rw [List.length_cons] at hfits hj
    have hne : j ≠ ea s.cfg base := by
      rw [ea_of_lt s.cfg (by omega)]
      omega
    rw [State.copyImage, ih _ _ (by omega) (by omega), State.byteAt_writeMem, if_neg hne]

/-- Byte k of the image stands at `base` + k: the rest of the loop writes above it. -/
theorem State.byteAt_copyImage_add {k : Nat} (hk : k < bs.length) :
    (s.copyImage base bs).byteAt (base + k) = bs[k] := by
  induction bs generalizing s base k with
  | nil => cases hk
  | cons b bs ih =>
    rw [List.length_cons] at hfits
    rw [State.copyImage]
    cases k with
    | zero =>
      have hea : base = ea s.cfg base := (ea_of_lt s.cfg (by omega)).symm
      have htail : ((s.writeMem base b).copyImage (base + 1) bs).byteAt base = (s.writeMem base b).byteAt base :=
        State.byteAt_copyImage_outside bs _ _ (by omega) (.inl base.lt_succ_self)
      rw [Nat.add_zero base, htail, State.byteAt_writeMem, if_pos hea]
      rfl
    | succ k =>
      have hfits' : base + 1 + bs.length ≤ memorySize := by omega
      have hnext : base + (k + 1) = base + 1 + k := by omega
      rw [hnext]
      exact ih _ _ hfits' (Nat.lt_of_succ_lt_succ hk)

end

theorem State.hostLoad_of_le {image : List Byte} (h : image.length ≤ 0xE00) (s : State) :
    s.hostLoad image = (s.beginTransaction.copyImage 0x200 image).setLoadResult .success := if_pos h

/-- Settles O57: the copy loop writes memory only, and the program area holds the image. -/
theorem loadCopiesTheImage : Obligations.LoadCopiesTheImage := by
  intro image s hlen
  have hfits : 0x200 + image.length ≤ memorySize := Nat.add_le_add_left hlen 0x200
  rw [State.hostLoad_of_le hlen]
  refine ⟨fun k hk => ?_, fun j hj => ?_, ?_, ?_⟩
  · exact State.byteAt_copyImage_add image s.beginTransaction _ hfits hk
  · exact State.byteAt_copyImage_outside image s.beginTransaction _ hfits hj
  · rw [State.copyImage_eq]
    rfl
  · rw [State.copyImage_eq]
    rfl

/-- Settles O58: the other branch of the load, which only reports. -/
theorem loadTooLargeChangesNothing : Obligations.LoadTooLargeChangesNothing :=
  fun _ _ hlen => if_neg (Nat.not_le_of_gt hlen)

/-! ## The first fetch after a load (R141) -/

theorem State.byteAt_hostReset (s : State) (seed : Int) (k : Nat) :
    (s.hostReset seed).byteAt k = initialByte s.cfg k := rfl

/-- Within the memory the fetch reads the two bytes at PC under both address policies. -/
theorem State.fetch_of_pc {s : State} {a : Nat} (hpc : s.pc.toNat = a) (ha : a + 1 < memorySize) :
    s.fetch = s.byteAt a ++ s.byteAt (a + 1) := by
  rw [State.fetch, hpc, State.readMem, State.readMem, ea_of_lt _ ha, ea_of_lt _ (Nat.lt_of_succ_lt ha)]

/-- Settles O59: the load writes from 0x200 up, and every byte outside the image is as reset left it. -/
theorem bootStartsAtTheImage : Obligations.BootStartsAtTheImage := by
  intro s seed a b rest hlen
  obtain ⟨hin, hout, -, hrest⟩ := loadCopiesTheImage (a :: b :: rest) (s.hostReset seed) hlen
  refine ⟨(s.hostReset seed).hostLoad (a :: b :: rest), rfl, ?_⟩
  generalize (s.hostReset seed).hostLoad (a :: b :: rest) = t at hin hout hrest ⊢
  have hpc : t.pc = 0x200 := by
    rw [hrest]
    rfl
  have hfetch : t.fetch = a ++ b := by
    rw [State.fetch_of_pc (congrArg BitVec.toNat hpc) (by decide)]
    exact congrArg₂ (· ++ ·) (hin 0 (by simp)) (hin 1 (by simp))
  have hregs : ∀ x, t.getV x = 0 := by
    rw [hrest]
    exact fun x => Vector.getElem_replicate x.isLt
  have hfont : ∀ j : Fin 80, t.byteAt (0x050 + j.val) = s.cfg.font[j.val] := by
    intro j
    rw [hout _ (.inl (by omega)), State.byteAt_hostReset]
    exact initialByte_fontBase_add s.cfg j.isLt
  refine ⟨hfetch, hpc, ?_, hregs, ?_, ?_, ?_, fun k => ?_, hfont, fun k hk => ?elsewhere⟩
  case elsewhere =>
    rw [hout _ (by omega), State.byteAt_hostReset]
    obtain hlow | hhigh : k < 0x050 ∨ 0x0A0 ≤ k := by omega
    · exact initialByte_of_lt_fontBase s.cfg hlow
    · exact initialByte_of_font_le s.cfg hhigh
  all_goals
    rw [hrest]
    rfl

/-! ## The idle loop (R144) -/

/-- `t` is `s` after the timers counted `n` steps down in silence, with the sound-stop event where the last of
them took ST to 0. -/
def CountedDown (n : Nat) (s t : State) : Prop :=
  t = { s with dt := t.dt, st := t.st, out := t.out } ∧
  t.dt.toNat = s.dt.toNat - n ∧ t.st.toNat = s.st.toNat - n ∧
  t.out.diag = [] ∧ (t.out.soundStop = true ↔ s.st.toNat = n)

theorem CountedDown.timerUpdate (s : State) : CountedDown 1 s s.beginTransaction.timerUpdate := by
  refine ⟨?_, State.timerUpdate_dt_toNat _, State.timerUpdate_st_toNat _, State.timerUpdate_diag _,
    State.timerUpdate_soundStop_iff rfl⟩
  rw [State.timerUpdate_eq]
  rfl

theorem CountedDown.trans {m n : Nat} {s t u : State} (hst : CountedDown m s t) (htu : CountedDown n t u)
    (hn : 0 < n) : CountedDown (m + n) s u := by
  obtain ⟨heq, hdt, hsound, -, -⟩ := hst
  obtain ⟨heq', hdt', hsound', hdiag, hstop⟩ := htu
  refine ⟨?_, by omega, by omega, hdiag, hstop.trans (by omega)⟩
  rw [heq', heq]

/-- Neither PC nor the word at PC depends on the timers or the outputs. -/
theorem CountedDown.idle {n : Nat} {s t : State} (h : CountedDown n s t) (hidle : s.Idle) : t.Idle := by
  obtain ⟨heq, -⟩ := h
  rw [heq]
  exact hidle

/-- A jump to itself writes nothing, which leaves the timer update. -/
theorem step_of_idle {s : State} (h : s.Idle) : step s = .next s.beginTransaction.timerUpdate := by
  obtain ⟨p, hpc, hfetch⟩ := h
  have hd : decodeWord s.fetch = .ok (.jp p) := by
    rw [hfetch]
    exact decodeWord_encode (i := .jp p) trivial
  have hexec : exec (.jp p) s.beginTransaction = .next (s.beginTransaction.setPc (addrWord p)) := rfl
  rw [← hpc] at hexec
  exact step_of_exec hd hexec

/-- Settles O56, by induction on the steps: each finds the loop idle again. -/
theorem anIdleLoopOnlyCountsTimers : Obligations.AnIdleLoopOnlyCountsTimers := by
  intro n
  show ∀ s : State, s.Idle → ∃ t, runSteps (n + 1) s = .next t ∧ CountedDown (n + 1) s t
  induction n with
  | zero => exact fun s hs => ⟨_, runSteps_succ_of_step (step_of_idle hs) 0, CountedDown.timerUpdate s⟩
  | succ n ih =>
    intro s hs
    have hone := CountedDown.timerUpdate s
    obtain ⟨t, hrun, hcount⟩ := ih _ (hone.idle hs)
    refine ⟨t, (runSteps_succ_of_step (step_of_idle hs) (n + 1)).trans hrun, ?_⟩
    rw [Nat.add_comm]
    exact hone.trans hcount n.succ_pos

/-! ## A timer after the instruction that wrote it (R145, R146) -/

/-- DT after a step that executes FX15. -/
theorem step_dt_of_ldDt {s t : State} {x : Reg} (hd : decodeWord s.fetch = .ok (.ldDt x))
    (h : step s = .next t) : t.dt.toNat = (s.getV x).toNat - 1 := by
  obtain ⟨hdt, -, -⟩ := everyStepCountsTheTimersDown.1 s t h
  rw [hdt, dtBeforeUpdate_of_decodes hd]
  rfl

/-- A step that executes FX07 reads DT as the step before left it. -/
theorem step_getV_of_ldVDt {s t : State} {y : Reg} (hd : decodeWord s.fetch = .ok (.ldVDt y))
    (h : step s = .next t) : t.getV y = s.dt := by
  have hexec : exec (.ldVDt y) s.beginTransaction = .next (s.beginTransaction.setV y s.dt).advance := rfl
  rw [step_of_exec hd hexec, State.timerUpdate_eq] at h
  cases h
  exact State.getV_setV_same s.beginTransaction y s.dt

/-- Settles O46: FX15's own step counts once, and each of the n steps after it. -/
theorem delayTimerReadsTheWriteLessTheSteps : Obligations.DelayTimerReadsTheWriteLessTheSteps := by
  intro n x y s t u w hwrite hs hrun hnot hread hu
  have hfirst : t.dt.toNat = (s.getV x).toNat - 1 := step_dt_of_ldDt hwrite hs
  have hrest : u.dt.toNat = t.dt.toNat - n := (timersCountSteps n t u hrun).1 hnot
  rw [step_getV_of_ldVDt hread hu, hrest, hfirst]
  omega

/-- A run of n + 1 steps ends with a step. -/
theorem runSteps_succ_last {n : Nat} {s t : State} (h : runSteps (n + 1) s = .next t) :
    ∃ r, runSteps n s = .next r ∧ step r = .next t := by
  obtain ⟨u, hu⟩ := step_total s
  rw [runSteps_succ_of_step hu] at h
  induction n generalizing s u with
  | zero =>
    cases h
    exact ⟨s, rfl, hu⟩
  | succ n ih =>
    obtain ⟨v, hv⟩ := step_total u
    rw [runSteps_succ_of_step hv] at h
    obtain ⟨r, hr, hlast⟩ := ih v h hv
    exact ⟨r, (runSteps_succ_of_step hu n).trans hr, hlast⟩

/-- ST when the timer update begins, j steps after an FX18 and with no other FX18: the value written less j. -/
theorem stBeforeUpdate_after_ldSt {x : Reg} {j : Nat} {s t r : State} (hd : decodeWord s.fetch = .ok (.ldSt x))
    (h : step s = .next t) (hrun : runSteps j s = .next r)
    (hnot : ∀ i q z, i < j → runSteps i t = .next q → decodeWord q.fetch ≠ .ok (.ldSt z)) :
    stBeforeUpdate r = (s.getV x).toNat - j := by
  have hwritten : stBeforeUpdate s = (s.getV x).toNat := stBeforeUpdate_of_decodes hd
  cases j with
  | zero =>
    cases hrun
    exact hwritten
  | succ j =>
    rw [runSteps_succ_of_step h] at hrun
    obtain ⟨-, hfirst, -⟩ := everyStepCountsTheTimersDown.1 s t h
    have hrest : r.st.toNat = t.st.toNat - j :=
      (timersCountSteps j t r hrun).2 fun i q z hi => hnot i q z (Nat.lt_succ_of_lt hi)
    rw [stBeforeUpdate_of_no_ldSt fun ⟨z, hz⟩ => hnot j r z j.lt_succ_self hrun hz]
    omega

theorem State.soundOn_iff (s : State) : s.soundOn = true ↔ s.st.toNat ≠ 0 := by
  have hzero : s.st = 0 ↔ s.st.toNat = 0 := BitVec.toNat_inj.symm
  rw [State.soundOn, bne_iff_ne, Ne, hzero]

/-- Settles O47: the step that ends the run, counted from the FX18, begins its timer update with v - j. -/
theorem soundLastsAsWritten : Obligations.SoundLastsAsWritten := by
  intro x s t v hd hv _ hs j u hj hrun hnot
  obtain ⟨r, hr, hlast⟩ := runSteps_succ_last ((runSteps_succ_of_step hs j).trans hrun)
  obtain ⟨-, hst, hstop⟩ := everyStepCountsTheTimersDown.1 r u hlast
  rw [stBeforeUpdate_after_ldSt hd hs hr hnot, hv] at hst hstop
  refine ⟨by omega, ?_, hstop.trans (by omega)⟩
  rw [State.soundOn_iff]
  omega

end Sys2Proof.Machine
end
